-- ==== Sys2Proof/Word.lean ====
section
/-!
DEFINITION. The word types of the chipo-rs CHIP-8 core (00_scope.md R7, R9).
-/

namespace Sys2Proof

/-- A byte: a general register, a timer, a memory byte, the immediate `kk`. -/
abbrev Byte := BitVec 8

/-- A 16-bit value: an opcode, `I`, `pc`, a stack entry. -/
abbrev Word := BitVec 16

/-- The 12-bit address immediate `nnn` (30_encoding.md R71). -/
abbrev Addr := BitVec 12

/-- One 4-bit nibble of an opcode (00_scope.md R9). -/
abbrev Nibble := BitVec 4

/-- The index of a general register, 0 to 15 (10_state.md R20). -/
abbrev Reg := Fin 16

/-- `VF`, the flag register, is register 15 (10_state.md R21). -/
abbrev flagReg : Reg := 15

end Sys2Proof
end

