-- ==== Sys2Proof/Syntax.lean ====
section
/-!
DEFINITION. The 34 instructions of 30_encoding.md R75, one constructor per row, in the order of the
table. Mnemonics are the labels of R80; the pattern in each docstring is the normative name.
-/

namespace Sys2Proof

/-- The instructions. `x`, `y` are register indices, `kk` and `nnn` immediates, `n` a row count
(30_encoding.md R71). -/
inductive Instr where
  /-- `00E0` clear the framebuffer -/
  | cls
  /-- `00EE` return from subroutine -/
  | ret
  /-- `1nnn` jump -/
  | jp (nnn : Addr)
  /-- `2nnn` call subroutine -/
  | call (nnn : Addr)
  /-- `3xkk` skip if `Vx = kk` -/
  | seImm (x : Reg) (kk : Byte)
  /-- `4xkk` skip if `Vx ≠ kk` -/
  | sneImm (x : Reg) (kk : Byte)
  /-- `5xy0` skip if `Vx = Vy` -/
  | seReg (x y : Reg)
  /-- `9xy0` skip if `Vx ≠ Vy` -/
  | sneReg (x y : Reg)
  /-- `6xkk` load immediate -/
  | ldImm (x : Reg) (kk : Byte)
  /-- `7xkk` add immediate, no flag -/
  | addImm (x : Reg) (kk : Byte)
  /-- `8xy0` copy -/
  | ldReg (x y : Reg)
  /-- `8xy1` bitwise OR -/
  | orReg (x y : Reg)
  /-- `8xy2` bitwise AND -/
  | andReg (x y : Reg)
  /-- `8xy3` bitwise exclusive OR -/
  | xorReg (x y : Reg)
  /-- `8xy4` add with carry out -/
  | addReg (x y : Reg)
  /-- `8xy5` subtract `Vy` from `Vx` -/
  | sub (x y : Reg)
  /-- `8xy6` shift `Vx` right by one; `y` is a don't-care (R78), kept so that no bit of the word is lost -/
  | shr (x y : Reg)
  /-- `8xy7` subtract `Vx` from `Vy` -/
  | subn (x y : Reg)
  /-- `8xyE` shift `Vx` left by one; `y` is a don't-care (R78) -/
  | shl (x y : Reg)
  /-- `Annn` load index -/
  | ldI (nnn : Addr)
  /-- `Bnnn` jump to `V0 + nnn` -/
  | jpV0 (nnn : Addr)
  /-- `Cxkk` masked random byte -/
  | rnd (x : Reg) (kk : Byte)
  /-- `Dxyn` draw a sprite of `n` rows -/
  | drw (x y : Reg) (n : Nat)
  /-- `Ex9E` skip if key `Vx` is pressed -/
  | skp (x : Reg)
  /-- `ExA1` skip if key `Vx` is not pressed -/
  | sknp (x : Reg)
  /-- `Fx07` read the delay timer -/
  | ldVxDt (x : Reg)
  /-- `Fx15` set the delay timer -/
  | ldDtVx (x : Reg)
  /-- `Fx18` set the sound timer -/
  | ldStVx (x : Reg)
  /-- `Fx0A` wait for a key -/
  | ldVxK (x : Reg)
  /-- `Fx1E` add register to index -/
  | addI (x : Reg)
  /-- `Fx29` point index at a glyph -/
  | ldF (x : Reg)
  /-- `Fx33` store three decimal digits -/
  | ldB (x : Reg)
  /-- `Fx55` store `V0` to `Vx` -/
  | ldMemVx (x : Reg)
  /-- `Fx65` load `V0` to `Vx` -/
  | ldVxMem (x : Reg)
deriving DecidableEq, Repr

end Sys2Proof
end

