-- ==== Sys2Proof/WellFormed.lean ====
section
/-!
DEFINITION. Which terms of `Instr` are instructions of the machine. Register indices and immediates
carry their range in their type; the one check left is that the row count `n` of `Dxyn` fits its
4-bit field (30_encoding.md R73).
-/

namespace Sys2Proof

/-- `n` of `Dxyn` is 0 to 15; every other operand is legal at every value of its type (R73). -/
def Instr.wellFormed : Instr → Bool
  | .drw _ _ n => n < 16
  | .cls => true
  | .ret => true
  | .jp _ => true
  | .call _ => true
  | .seImm _ _ => true
  | .sneImm _ _ => true
  | .seReg _ _ => true
  | .sneReg _ _ => true
  | .ldImm _ _ => true
  | .addImm _ _ => true
  | .ldReg _ _ => true
  | .orReg _ _ => true
  | .andReg _ _ => true
  | .xorReg _ _ => true
  | .addReg _ _ => true
  | .sub _ _ => true
  | .shr _ _ => true
  | .subn _ _ => true
  | .shl _ _ => true
  | .ldI _ => true
  | .jpV0 _ => true
  | .rnd _ _ => true
  | .skp _ => true
  | .sknp _ => true
  | .ldVxDt _ => true
  | .ldDtVx _ => true
  | .ldStVx _ => true
  | .ldVxK _ => true
  | .addI _ => true
  | .ldF _ => true
  | .ldB _ => true
  | .ldMemVx _ => true
  | .ldVxMem _ => true

end Sys2Proof
end

