-- ==== Sys2Proof/Decode.lean ====
section
/-!
DEFINITION. The decoder, total on any bytes and rejecting by name, and the encoder after it, both
written from 30_encoding.md R70 to R79. Decoding depends on the opcode word alone (R74).
-/

namespace Sys2Proof

/-- The big-endian word of two bytes: the byte at the lower address is the high one (20_memory.md R54). -/
def wordOfBytes (hi lo : Byte) : Word := hi ++ lo

/-- The byte of a word that is stored at the lower address. -/
def highByte (w : Word) : Byte := w.extractLsb' 8 8

/-- The byte of a word that is stored at the higher address. -/
def lowByte (w : Word) : Byte := w.extractLsb' 0 8

/-- `n1 = opcode[15:12]`, the major opcode (00_scope.md R9). -/
def majorOf (w : Word) : Nibble := w.extractLsb' 12 4

/-- `n4 = opcode[3:0]`: the minor opcode of the XY format, the row count of `Dxyn` (R71). -/
def minorOf (w : Word) : Nibble := w.extractLsb' 0 4

/-- The register index that a nibble names (R71, R73). -/
def regOfNibble (b : Nibble) : Reg := b.toFin

/-- `x = opcode[11:8]` (R71). -/
def fieldX (w : Word) : Reg := regOfNibble (w.extractLsb' 8 4)

/-- `y = opcode[7:4]` (R71). -/
def fieldY (w : Word) : Reg := regOfNibble (w.extractLsb' 4 4)

/-- `n = opcode[3:0]` as a count (R71). -/
def fieldN (w : Word) : Nat := (minorOf w).toNat

/-- `kk = opcode[7:0]` (R71). -/
def fieldKK (w : Word) : Byte := w.extractLsb' 0 8

/-- `nnn = opcode[11:0]` (R71). -/
def fieldNNN (w : Word) : Addr := w.extractLsb' 0 12

/-- Major opcode 0: the whole word decides (R76). -/
def decodeSystem (w : Word) : Option Instr :=
  match fieldNNN w with
  | 0x0E0#12 => some .cls
  | 0x0EE#12 => some .ret
  | _ => none

/-- Major opcode 8: the minor opcode `n` decides (R76). -/
def decodeAlu (w : Word) : Option Instr :=
  match minorOf w with
  | 0x0#4 => some (.ldReg (fieldX w) (fieldY w))
  | 0x1#4 => some (.orReg (fieldX w) (fieldY w))
  | 0x2#4 => some (.andReg (fieldX w) (fieldY w))
  | 0x3#4 => some (.xorReg (fieldX w) (fieldY w))
  | 0x4#4 => some (.addReg (fieldX w) (fieldY w))
  | 0x5#4 => some (.sub (fieldX w) (fieldY w))
  | 0x6#4 => some (.shr (fieldX w) (fieldY w))
  | 0x7#4 => some (.subn (fieldX w) (fieldY w))
  | 0xE#4 => some (.shl (fieldX w) (fieldY w))
  | _ => none

/-- Major opcode E: `kk` decides (R76). -/
def decodeKey (w : Word) : Option Instr :=
  match fieldKK w with
  | 0x9E#8 => some (.skp (fieldX w))
  | 0xA1#8 => some (.sknp (fieldX w))
  | _ => none

/-- Major opcode F: `kk` decides (R76). -/
def decodeMisc (w : Word) : Option Instr :=
  match fieldKK w with
  | 0x07#8 => some (.ldVxDt (fieldX w))
  | 0x0A#8 => some (.ldVxK (fieldX w))
  | 0x15#8 => some (.ldDtVx (fieldX w))
  | 0x18#8 => some (.ldStVx (fieldX w))
  | 0x1E#8 => some (.addI (fieldX w))
  | 0x29#8 => some (.ldF (fieldX w))
  | 0x33#8 => some (.ldB (fieldX w))
  | 0x55#8 => some (.ldMemVx (fieldX w))
  | 0x65#8 => some (.ldVxMem (fieldX w))
  | _ => none

/-- The instruction a word stands for, `none` for the 21582 illegal words (R75, R76, R77). -/
def decodeWord (w : Word) : Option Instr :=
  match majorOf w with
  | 0x0#4 => decodeSystem w
  | 0x1#4 => some (.jp (fieldNNN w))
  | 0x2#4 => some (.call (fieldNNN w))
  | 0x3#4 => some (.seImm (fieldX w) (fieldKK w))
  | 0x4#4 => some (.sneImm (fieldX w) (fieldKK w))
  | 0x5#4 => if minorOf w = 0 then some (.seReg (fieldX w) (fieldY w)) else none
  | 0x6#4 => some (.ldImm (fieldX w) (fieldKK w))
  | 0x7#4 => some (.addImm (fieldX w) (fieldKK w))
  | 0x8#4 => decodeAlu w
  | 0x9#4 => if minorOf w = 0 then some (.sneReg (fieldX w) (fieldY w)) else none
  | 0xA#4 => some (.ldI (fieldNNN w))
  | 0xB#4 => some (.jpV0 (fieldNNN w))
  | 0xC#4 => some (.rnd (fieldX w) (fieldKK w))
  | 0xD#4 => some (.drw (fieldX w) (fieldY w) (fieldN w))
  | 0xE#4 => decodeKey w
  | _ => decodeMisc w -- 0xF, the only major opcode left

/-- What the decoder says of a string of bytes. -/
inductive Decoded where
  /-- an instruction, and the bytes after its two -/
  | instr (i : Instr) (rest : List Byte)
  /-- the word matches none of the 34 patterns: the machine's UnrecognizedOpcode (R77) -/
  | illegal (w : Word)
  /-- fewer than two bytes are left: no word -/
  | truncated
deriving DecidableEq, Repr

/-- Decode the instruction at the head of a string of bytes: always two bytes, high one first (R70). -/
def decode : List Byte → Decoded
  | hi :: lo :: rest =>
    match decodeWord (wordOfBytes hi lo) with
    | some i => .instr i rest
    | none => .illegal (wordOfBytes hi lo)
  | [_] => .truncated
  | [] => .truncated

/-- The nibble that names a register. -/
def nibbleOfReg (r : Reg) : Nibble := BitVec.ofFin r

/-- Format NNN (R72). -/
def encodeNNN (major : Nibble) (nnn : Addr) : Word := major ++ nnn

/-- Formats XKK and X (R72). -/
def encodeXKK (major : Nibble) (x : Reg) (kk : Byte) : Word := major ++ nibbleOfReg x ++ kk

/-- Formats XY and XYN (R72). -/
def encodeXYN (major : Nibble) (x y : Reg) (n : Nibble) : Word :=
  major ++ nibbleOfReg x ++ nibbleOfReg y ++ n

/-- The opcode word of an instruction, row by row from R75. -/
def encode : Instr → Word
  | .cls => 0x00E0
  | .ret => 0x00EE
  | .jp nnn => encodeNNN 0x1 nnn
  | .call nnn => encodeNNN 0x2 nnn
  | .seImm x kk => encodeXKK 0x3 x kk
  | .sneImm x kk => encodeXKK 0x4 x kk
  | .seReg x y => encodeXYN 0x5 x y 0x0
  | .sneReg x y => encodeXYN 0x9 x y 0x0
  | .ldImm x kk => encodeXKK 0x6 x kk
  | .addImm x kk => encodeXKK 0x7 x kk
  | .ldReg x y => encodeXYN 0x8 x y 0x0
  | .orReg x y => encodeXYN 0x8 x y 0x1
  | .andReg x y => encodeXYN 0x8 x y 0x2
  | .xorReg x y => encodeXYN 0x8 x y 0x3
  | .addReg x y => encodeXYN 0x8 x y 0x4
  | .sub x y => encodeXYN 0x8 x y 0x5
  | .shr x y => encodeXYN 0x8 x y 0x6
  | .subn x y => encodeXYN 0x8 x y 0x7
  | .shl x y => encodeXYN 0x8 x y 0xE
  | .ldI nnn => encodeNNN 0xA nnn
  | .jpV0 nnn => encodeNNN 0xB nnn
  | .rnd x kk => encodeXKK 0xC x kk
  | .drw x y n => encodeXYN 0xD x y (BitVec.ofNat 4 n)
  | .skp x => encodeXKK 0xE x 0x9E
  | .sknp x => encodeXKK 0xE x 0xA1
  | .ldVxDt x => encodeXKK 0xF x 0x07
  | .ldDtVx x => encodeXKK 0xF x 0x15
  | .ldStVx x => encodeXKK 0xF x 0x18
  | .ldVxK x => encodeXKK 0xF x 0x0A
  | .addI x => encodeXKK 0xF x 0x1E
  | .ldF x => encodeXKK 0xF x 0x29
  | .ldB x => encodeXKK 0xF x 0x33
  | .ldMemVx x => encodeXKK 0xF x 0x55
  | .ldVxMem x => encodeXKK 0xF x 0x65

/-- The bytes of an instruction as memory holds them (R70, 20_memory.md R54). -/
def encodeBytes (i : Instr) : List Byte := [highByte (encode i), lowByte (encode i)]

/-- What the decoder reads from an instruction whose bits are `w` as spec/opcode_table.json numbers them.
Every row is one 16-bit word, so the bits above `nbits` are zero and the word is laid out high byte
first. -/
def decodeTableWord (nbits w : Nat) : Option Instr :=
  match decode [highByte (BitVec.ofNat 16 (w % 2 ^ nbits)), lowByte (BitVec.ofNat 16 (w % 2 ^ nbits))] with
  | .instr i _ => some i
  | .illegal _ => none
  | .truncated => none

/-- The columns `match` and `mask` of the 34 rows of R75, in the order of the table. -/
def opcodeRows : List (Word × Word) := [
  (0x00E0, 0xFFFF), (0x00EE, 0xFFFF), (0x1000, 0xF000), (0x2000, 0xF000), (0x3000, 0xF000),
  (0x4000, 0xF000), (0x5000, 0xF00F), (0x9000, 0xF00F), (0x6000, 0xF000), (0x7000, 0xF000),
  (0x8000, 0xF00F), (0x8001, 0xF00F), (0x8002, 0xF00F), (0x8003, 0xF00F), (0x8004, 0xF00F),
  (0x8005, 0xF00F), (0x8006, 0xF00F), (0x8007, 0xF00F), (0x800E, 0xF00F), (0xA000, 0xF000),
  (0xB000, 0xF000), (0xC000, 0xF000), (0xD000, 0xF000), (0xE09E, 0xF0FF), (0xE0A1, 0xF0FF),
  (0xF007, 0xF0FF), (0xF015, 0xF0FF), (0xF018, 0xF0FF), (0xF00A, 0xF0FF), (0xF01E, 0xF0FF),
  (0xF029, 0xF0FF), (0xF033, 0xF0FF), (0xF055, 0xF0FF), (0xF065, 0xF0FF)]

end Sys2Proof
end

