-- ==== Sys2Proof/Config.lean ====
section
/-!
DEFINITION. What is fixed for an instance of the core: the sizes of 00_scope.md R7, the two open
parameters of R8, and the free value behind the random-byte input (46_host_interface.md R206).
-/

namespace Sys2Proof

/-- `MEM_SIZE`: bytes of memory (00_scope.md R7). -/
@[simp] abbrev memSize : Nat := 4096

/-- `FONT_LEN`: bytes of glyph data, at addresses 0 to 79 (00_scope.md R7). -/
@[simp] abbrev fontLen : Nat := 80

/-- `PROG_BASE`: load address of a ROM and reset value of pc (00_scope.md R7). -/
@[simp] abbrev progBase : Nat := 0x200

/-- `ROM_MAX`: the largest ROM length in bytes (00_scope.md R7). -/
@[simp] abbrev romMax : Nat := 3584

/-- `STACK_DEPTH`: entries of the call stack (00_scope.md R7). -/
@[simp] abbrev stackDepth : Nat := 16

/-- `FETCH_MAX_PC`: the largest pc at which a fetch is legal (00_scope.md R7). -/
@[simp] abbrev fetchMaxPc : Nat := 4094

/-- `FB_W`: framebuffer columns (00_scope.md R7). -/
@[simp] abbrev fbWidth : Nat := 64

/-- `FB_H`: framebuffer rows (00_scope.md R7). -/
@[simp] abbrev fbHeight : Nat := 32

/-- The parameter `FONT`: the 80 bytes of the glyph table (00_scope.md R8). -/
abbrev Font := Vector Byte 80

/-- The parameter `DRAW_EDGE` (00_scope.md R8, 44_display.md R172): what a draw does with a set sprite
bit whose pixel lies outside the grid. -/
inductive DrawEdge where
  /-- the draw faults and changes nothing (the spec's default) -/
  | fault
  /-- the pixel is dropped -/
  | clip
deriving DecidableEq, Repr

/-- The two parameters of one instance of the core (00_scope.md R8). -/
structure Config where
  font     : Font
  drawEdge : DrawEdge
deriving DecidableEq, Repr

/-- The default glyph table of 10_state.md R31. PRESUMED: the spec itself marks these bytes
`[from general knowledge, not in source]`. Unsafe for a claim about glyph bytes: log entry 1. -/
def Config.defaultFont : Font := #v[
  0xF0, 0x90, 0x90, 0x90, 0xF0,
  0x20, 0x60, 0x20, 0x20, 0x70,
  0xF0, 0x10, 0xF0, 0x80, 0xF0,
  0xF0, 0x10, 0xF0, 0x10, 0xF0,
  0x90, 0x90, 0xF0, 0x10, 0x10,
  0xF0, 0x80, 0xF0, 0x10, 0xF0,
  0xF0, 0x80, 0xF0, 0x90, 0xF0,
  0xF0, 0x10, 0x20, 0x40, 0x40,
  0xF0, 0x90, 0xF0, 0x90, 0xF0,
  0xF0, 0x90, 0xF0, 0x10, 0xF0,
  0xF0, 0x90, 0xF0, 0x90, 0x90,
  0xE0, 0x90, 0xE0, 0x90, 0xE0,
  0xF0, 0x80, 0x80, 0x80, 0xF0,
  0xE0, 0x90, 0x90, 0x90, 0xE0,
  0xF0, 0x80, 0xF0, 0x80, 0xF0,
  0xF0, 0x80, 0xF0, 0x80, 0x80]

/-- The spec's default parameters: `FONT` of R31 and `DRAW_EDGE = Fault` (00_scope.md R8). -/
def Config.default : Config := ⟨Config.defaultFont, .fault⟩

/-- The free random byte: what the host's generator answers to the `k`-th request for which State lists
no byte. It has no body, so nothing can be proved of its values (46_host_interface.md R206,
92_eei_decisions.md D18). Safe: log entry 4. -/
opaque Config.freeRandom : Nat → Byte

end Sys2Proof
end

