-- ==== Sys2Proof/Machine/State.lean ====
section
/-!
DEFINITION. The machine's state (10_state.md R35), the fault record (60_exceptions.md R227), the reasons
a step can stop, and the state after reset (70_reset_and_hazards.md R251).
-/

namespace Sys2Proof.Machine

/-- The cause of a fault (60_exceptions.md R220 to R224). -/
inductive Cause where
  /-- code 1: the word matches no pattern (R220) -/
  | unrecognizedOpcode
  /-- code 2: an address, a pixel or a key index out of bounds (R221) -/
  | outOfBounds
  /-- code 3: a call at `sp = 16` (R222) -/
  | stackOverflow
  /-- code 4: a return at `sp = 0` (R223) -/
  | stackUnderflow
  /-- code 5: a ROM longer than 3584 bytes (R224) -/
  | romTooLarge
deriving DecidableEq, Repr

/-- The detail of a fault record, with the widths of 60_exceptions.md R227. -/
inductive Detail where
  /-- no detail -/
  | none
  /-- sub-cause FETCH -/
  | fetch (address : Word)
  /-- sub-cause MEM -/
  | mem (address : Word)
  /-- sub-cause FB -/
  | fb (column row : BitVec 9)
  /-- sub-cause KEY -/
  | key (index : Byte)
  /-- the rejected length of a ROM -/
  | length (len : Nat)
deriving DecidableEq, Repr

/-- The fault record (60_exceptions.md R227). -/
structure FaultRecord where
  cause  : Cause
  pc     : Word
  opcode : Option Word
  detail : Detail
deriving DecidableEq, Repr

/-- The framebuffer: 32 rows of 64 one-bit pixels, `FB[row][col]` (10_state.md R29). -/
abbrev Framebuffer := Vector (Vector Bool 64) 32

/-- The whole state of the core (10_state.md R35), and after it the model's own fields. -/
structure State where
  /-- `V0` to `VF` (R20, R21) -/
  v      : Vector Byte 16
  /-- `I` (R22) -/
  index  : Word
  /-- the program counter (R23); during dispatch the provisional `pc0 + 2` -/
  pc     : Word
  /-- the call stack (R24) -/
  stack  : Vector Word 16
  /-- the stack pointer, 0 to 16 (R25) -/
  sp     : Fin 17
  /-- the delay timer (R26) -/
  dt     : Byte
  /-- the sound timer (R27) -/
  st     : Byte
  /-- the keypad, `true` is pressed (R28) -/
  key    : Vector Bool 16
  /-- the framebuffer, `true` is lit (R29) -/
  fb     : Framebuffer
  /-- the redraw flag (R32) -/
  redraw : Bool
  /-- the memory (R30), as the cells that differ from what `Memory.unlisted` says -/
  mem    : List Host.Cell
  /-- set by a fault, cleared only by reset (R33) -/
  halted : Bool
  /-- the fault record (R34) -/
  fault  : Option FaultRecord
  /-- the model's own: the parameters of this instance (00_scope.md R8), which no step writes (log entry 3) -/
  cfg    : Config
  /-- the model's own: random bytes the host has ready, the next one first (log entry 4) -/
  random : List Byte
  /-- the model's own: how many free random bytes have been drawn (log entry 4) -/
  draws  : Nat
  /-- the model's own: the tone output of the last cycle (log entry 5) -/
  tone   : Bool
deriving DecidableEq, Repr

/-- The reasons a step stops with no next state. There is none: each of the five faults of
60_exceptions.md has an entry the spec describes (R226), so it is a NEXT state with `halted` set and the
record written, and a halted core's step is a next state too (40_cycle_and_dispatch.md R99). Log entry 6. -/
inductive Fault where
deriving DecidableEq, Repr

/-- The reasons the model gives an instruction no meaning. -/
inductive Refusal where
  /-- Raised by an arm of `exec` whose instruction is not modelled yet; safe. No arm is left with it. -/
  | notModelled (mnemonic : String)
deriving DecidableEq, Repr

/-- The state after `initialize()` on an instance with the parameters `cfg`
(70_reset_and_hazards.md R251). Memory lists nothing: an unlisted address reads as `FONT` or zero. -/
def State.initial (cfg : Config) : State where
  v      := Vector.replicate 16 0
  index  := 0
  pc     := 0x200
  stack  := Vector.replicate 16 0
  sp     := 0
  dt     := 0
  st     := 0
  key    := Vector.replicate 16 false
  fb     := Vector.replicate 32 (Vector.replicate 64 false)
  redraw := false
  mem    := []
  halted := false
  fault  := .none
  cfg    := cfg
  random := []
  draws  := 0
  tone   := false

/-- The state after reset, on an instance with the spec's default parameters (00_scope.md R8). -/
def State.reset : State := State.initial Config.default

end Sys2Proof.Machine
end

