-- ==== Sys2Proof/Machine/Ops.lean ====
section
/-!
DEFINITION. The named operations over memory, registers, the stack, the framebuffer, the timers and the
random input; fetching; and taking a fault. There is no return from a fault (60_exceptions.md R232).
-/

namespace Sys2Proof.Machine

/-! Memory (20_memory.md) -/

/-- What an address that memory does not list reads as: its reset contents, `FONT` at 0 to 79 and zero
from 80 on (10_state.md R30, R31). -/
def Memory.unlisted (font : Font) (a : Nat) : Byte := (font[a]?).getD 0

/-- One byte of memory. -/
def Memory.read (font : Font) (m : List Host.Cell) (a : Nat) : Byte :=
  (m.lookup a).getD (Memory.unlisted font a)

/-- Put a cell at its place in a list whose addresses rise. -/
def Memory.insert (a : Nat) (b : Byte) : List Host.Cell → List Host.Cell
  | [] => [(a, b)]
  | c :: cs =>
    if c.1 < a then c :: Memory.insert a b cs
    else if c.1 = a then (a, b) :: cs
    else (a, b) :: c :: cs

/-- Take the cell of an address out. -/
def Memory.erase (a : Nat) (m : List Host.Cell) : List Host.Cell := m.filter (fun c => c.1 ≠ a)

/-- Write one byte. Writing what an unlisted address reads as removes the entry, so that equal memories
are equal lists. -/
def Memory.write (font : Font) (m : List Host.Cell) (a : Nat) (b : Byte) : List Host.Cell :=
  if b = Memory.unlisted font a then Memory.erase a m else Memory.insert a b m

/-- The canonical form: addresses strictly rise, lie in 0 to 4095 (20_memory.md R50), and no entry equals
what the unlisted address reads as. -/
abbrev Memory.wf (font : Font) (m : List Host.Cell) : Prop :=
  m.Pairwise (fun c d => c.1 < d.1) ∧ ∀ c ∈ m, c.1 < memSize ∧ c.2 ≠ Memory.unlisted font c.1

/-- `MemRead(a, 1)` (00_scope.md R11). -/
def State.readMem (s : State) (a : Nat) : Byte := Memory.read s.cfg.font s.mem a

/-- `MemWrite(a, 1, b)` (00_scope.md R11). The rules that call it have checked `a ≤ 4095`. -/
def State.writeMem (s : State) (a : Nat) (b : Byte) : State :=
  { s with mem := Memory.write s.cfg.font s.mem a b }

/-- Single-byte writes at ascending addresses (20_memory.md R52, R62). -/
def State.writeBytes (s : State) (a : Nat) : List Byte → State
  | [] => s
  | b :: bs => (s.writeMem a b).writeBytes (a + 1) bs

/-! Registers (10_state.md) -/

/-- Read a general register (R20). -/
def State.getV (s : State) (r : Reg) : Byte := s.v[r]

/-- Write a general register; none is hardwired (R20). -/
def State.setV (s : State) (r : Reg) (b : Byte) : State := { s with v := s.v.set r b }

/-- Write `I` (R22). -/
def State.setIndex (s : State) (w : Word) : State := { s with index := w }

/-- `pc <- w` (00_scope.md R11). -/
def State.setPc (s : State) (w : Word) : State := { s with pc := w }

/-- Write the delay timer (R26). -/
def State.setDt (s : State) (b : Byte) : State := { s with dt := b }

/-- Write the sound timer (R27). -/
def State.setSt (s : State) (b : Byte) : State := { s with st := b }

/-- The pc advance before dispatch (40_cycle_and_dispatch.md R92). -/
def State.advancePc (s : State) : State := s.setPc (s.pc + 2)

/-- A taken skip adds 2 to the provisional pc (41_control_flow.md R118). -/
def State.skipNext (s : State) : State := s.setPc (s.pc + 2)

/-- The key wait takes the provisional pc back to `pc0` (45_keypad_timers.md R182). -/
def State.waitHere (s : State) : State := s.setPc (s.pc - 2)

/-! The call stack (10_state.md R24, R25) -/

/-- Push at the pointer, then increment. Called only with `sp < 16`. -/
def State.push (s : State) (w : Word) : State :=
  { s with stack := s.stack.setIfInBounds s.sp.val w, sp := Fin.ofNat 17 (s.sp.val + 1) }

/-- The entry that a pop reads: the one below the pointer. -/
def State.top (s : State) : Word := (s.stack[s.sp.val - 1]?).getD 0

/-- Pop into pc: decrement, then read; the entry keeps its value. Called only with `sp > 0`. -/
def State.popPc (s : State) : State :=
  { s with sp := Fin.ofNat 17 (s.sp.val - 1), pc := s.top }

/-! The framebuffer (10_state.md R29) -/

/-- `FB[row][col]`; no pixel outside the grid exists, and none is asked for. -/
def Framebuffer.pixel (f : Framebuffer) (row col : Nat) : Bool :=
  ((f[row]?).bind (fun pixels => pixels[col]?)).getD false

/-- The blank framebuffer. -/
def Framebuffer.blank : Framebuffer := Vector.replicate 32 (Vector.replicate 64 false)

/-- `FB[row][col] <- FB[row][col] xor 1`. -/
def Framebuffer.toggle (f : Framebuffer) (row col : Nat) : Framebuffer :=
  match f[row]? with
  | some pixels => f.setIfInBounds row (pixels.setIfInBounds col (!f.pixel row col))
  | none => f

/-- Write the framebuffer and set the redraw flag: the only way an instruction writes either (R32). -/
def State.setDisplay (s : State) (f : Framebuffer) : State := { s with fb := f, redraw := true }

/-! The random input (46_host_interface.md R206) -/

/-- The byte the generator answers next: one the host has ready, or a free value. -/
def State.randomByte (s : State) : Byte :=
  match s.random with
  | b :: _ => b
  | [] => Config.freeRandom s.draws

/-- The generator's answer has been used. -/
def State.dropRandom (s : State) : State :=
  match s.random with
  | _ :: bs => { s with random := bs }
  | [] => { s with draws := s.draws + 1 }

/-! Fetch (40_cycle_and_dispatch.md R91) -/

/-- The big-endian word at an address. -/
def State.wordAt (s : State) (a : Nat) : Word := wordOfBytes (s.readMem a) (s.readMem (a + 1))

/-- A fetch is legal up to pc 4094. -/
def State.fetchable (s : State) : Bool := s.pc.toNat ≤ fetchMaxPc

/-- The opcode a legal fetch reads. -/
def State.fetchWord (s : State) : Word := s.wordAt s.pc.toNat

/-! Taking a fault (00_scope.md R12, 60_exceptions.md R226) -/

/-- The cause codes of the fault record (60_exceptions.md R227, R238); 0, 6 and 7 are unused. -/
def Cause.code : Cause → BitVec 3
  | .unrecognizedOpcode => 1
  | .outOfBounds => 2
  | .stackOverflow => 3
  | .stackUnderflow => 4
  | .romTooLarge => 5

/-- The sub-cause codes of `OutOfBounds` (60_exceptions.md R221). -/
def Detail.subCause : Detail → Option (BitVec 2)
  | .fetch _ => some 0
  | .mem _ => some 1
  | .fb _ _ => some 2
  | .key _ => some 3
  | .none => Option.none
  | .length _ => Option.none

/-- Take a fault from the state `s` that stood before the transaction: set `halted`, and write the record
unless the core was halted already. Nothing else changes, and control goes nowhere. -/
def State.raise (s : State) (cause : Cause) (pc : Word) (opcode : Option Word) (detail : Detail) : State :=
  { s with
    halted := true
    fault := if s.halted then s.fault else some ⟨cause, pc, opcode, detail⟩ }

/-- Take a fault during the dispatch of `i`, before any write of `i`: the pc advance is undone
(40_cycle_and_dispatch.md R98), and the record names the instruction's own address and its word
(60_exceptions.md R227). -/
def State.raiseIn (s : State) (i : Instr) (cause : Cause) (detail : Detail) : State :=
  (s.setPc (s.pc - 2)).raise cause (s.pc - 2) (some (encode i)) detail

/-- The lowest address above 4095 that an access from `base` upward touches: `max(base, 4096)`
(20_memory.md R53). -/
def beyondAddress (base : Word) : Word := BitVec.ofNat 16 (max base.toNat memSize)

/-- The fetch fault of a pc above 4094 (40_cycle_and_dispatch.md R91). -/
def State.raiseFetch (s : State) : State :=
  s.raise .outOfBounds s.pc none (.fetch (beyondAddress s.pc))

/-- The fault of an illegal word (60_exceptions.md R220). -/
def State.raiseIllegal (s : State) (w : Word) : State :=
  s.raise .unrecognizedOpcode s.pc (some w) .none

/-! The end of a cycle (40_cycle_and_dispatch.md R96, R98, R99) -/

/-- The tone output of the cycle. -/
def State.setTone (s : State) (b : Bool) : State := { s with tone := b }

/-- One count of a timer: it stays at zero and never wraps. -/
def countDown (b : Byte) : Byte := if 0 < b then b - 1 else b

/-- The timer tick of a completed cycle: both timers count down, and the tone is 1 iff the sound timer was
nonzero when the tick examined it (R96). -/
def State.tick (s : State) : State :=
  { s with dt := countDown s.dt, st := countDown s.st, tone := 0 < s.st }

/-- What follows dispatch: a cycle that faulted ticks nothing and has no tone (R98), any other ticks. -/
def State.endCycle (s : State) : State := if s.halted then s.setTone false else s.tick

end Sys2Proof.Machine
end

