-- ==== Sys2Proof/Machine/Operands.lean ====
section
/-!
DEFINITION. The operand forms: registers and immediates (00_scope.md R13, 30_encoding.md R73), addresses
through `I` (43_index_memory.md R156), register ranges, decimal digits, sprites (44_display.md R171) and
keys (10_state.md R28).
-/

namespace Sys2Proof.Machine

/-- `zext_16` of a byte (00_scope.md R10). -/
def wordOfByte (b : Byte) : Word := b.zeroExtend 16

/-- `nnn` zero-extended to 16 bits (30_encoding.md R73). -/
def wordOfAddr (nnn : Addr) : Word := nnn.zeroExtend 16

/-- The effective address `I + offset`, a natural number with no wrap (20_memory.md R51). -/
def State.addrAt (s : State) (offset : Nat) : Nat := s.index.toNat + offset

/-- An access to `count` bytes from `I` upward touches an address above 4095 (20_memory.md R53); an
access to no byte touches none. -/
def State.beyondMemory (s : State) (count : Nat) : Bool := 0 < count ∧ memSize < s.addrAt count

/-- The `count` bytes from `I` upward, in ascending order. -/
def State.readBytes (s : State) (count : Nat) : List Byte :=
  (List.range count).map (fun k => s.readMem (s.addrAt k))

/-- Take the fault of an access beyond memory (60_exceptions.md R221). -/
def State.raiseMem (s : State) (i : Instr) : State :=
  s.raiseIn i .outOfBounds (.mem (beyondAddress s.index))

/-- The registers `V0` to `Vx`, in ascending order (43_index_memory.md R154). -/
def State.regsUpTo (s : State) (x : Reg) : List Byte := s.v.toList.take (x.val + 1)

/-- Load `V0` to `Vx` from the bytes at `I` upward; the others keep their values (43_index_memory.md
R155). -/
def State.loadRegs (s : State) (x : Reg) : State :=
  { s with v := Vector.ofFn (fun r : Reg => if r ≤ x then s.readMem (s.addrAt r.val) else s.getV r) }

/-- The decimal digits of a byte, hundreds first (43_index_memory.md R153). -/
def decimalDigits (b : Byte) : List Byte :=
  [BitVec.ofNat 8 (b.toNat / 100), BitVec.ofNat 8 (b.toNat / 10 % 10), BitVec.ofNat 8 (b.toNat % 10)]

/-- The columns of a sprite byte that are set, column 0 the most significant bit (44_display.md R171). -/
def setColumns (b : Byte) : List Nat := (List.range 8).filter (fun c => b.getLsbD (7 - c))

/-- The pixels (column, row) that a sprite with its top left corner at (`px`, `py`) toggles, in the order
of row then column. Coordinates are natural numbers and do not wrap (44_display.md R172). -/
def spritePixels (px py : Nat) : List Byte → List (Nat × Nat)
  | [] => []
  | b :: bs => (setColumns b).map (fun c => (px + c, py)) ++ spritePixels px (py + 1) bs

/-- A pixel (column, row) outside the 64 by 32 grid (44_display.md R171). -/
def offGrid (p : Nat × Nat) : Bool := fbWidth ≤ p.1 || fbHeight ≤ p.2

/-- Key `k` is pressed (10_state.md R28). -/
def State.keyDown (s : State) (k : Nat) : Bool := (s.key[k]?).getD false

/-- A byte that numbers no key (45_keypad_timers.md R180). -/
def noSuchKey (b : Byte) : Bool := 15 < b.toNat

/-- Take the fault of a key index above 15 (45_keypad_timers.md R180). -/
def State.raiseKey (s : State) (i : Instr) (index : Byte) : State :=
  s.raiseIn i .outOfBounds (.key index)

/-- The least key that is pressed (45_keypad_timers.md R182). -/
def State.lowestKey (s : State) : Option Nat := (List.range 16).find? s.keyDown

end Sys2Proof.Machine
end

