-- ==== Sys2Proof/Machine/Flags.lean ====
section
/-!
DEFINITION. The values that `VF` receives as the flag (10_state.md R21, 42_alu.md R142, 44_display.md
R171), and the order in which a result and its flag are written (40_cycle_and_dispatch.md R95).
-/

namespace Sys2Proof.Machine

/-- A flag is stored as 0 or 1 (10_state.md R21). -/
def flagByte (b : Bool) : Byte := if b then 1 else 0

/-- The carry of an addition: the sum exceeds 255 (R142). -/
def carryOut (a b : Byte) : Bool := 255 < a.toNat + b.toNat

/-- The no-borrow bit of `a - b`: `a ≥ b`, equality included (R142). -/
def noBorrow (a b : Byte) : Bool := b ≤ a

/-- The bit that a right shift shifts out (R138). -/
def shiftedOutRight (a : Byte) : Bool := a.getLsbD 0

/-- The bit that a left shift shifts out (R140). -/
def shiftedOutLeft (a : Byte) : Bool := a.getLsbD 7

/-- Write `VF` as the flag. -/
def State.setFlag (s : State) (b : Bool) : State := s.setV flagReg (flagByte b)

/-- Write the result, then the flag, so that the flag is what `VF` holds when `x = 15` (R95). -/
def State.setVThenFlag (s : State) (x : Reg) (result : Byte) (flag : Bool) : State :=
  (s.setV x result).setFlag flag

/-- Toggle pixels one after another; the second part is the collision: some pixel was lit before its
toggle (44_display.md R171, pass 2). -/
def togglePixels : Framebuffer → List (Nat × Nat) → Framebuffer × Bool
  | f, [] => (f, false)
  | f, p :: ps =>
    ((togglePixels (f.toggle p.2 p.1) ps).1,
      f.pixel p.2 p.1 || (togglePixels (f.toggle p.2 p.1) ps).2)

/-- Draw the given pixels, then write the collision flag and set `redraw` (44_display.md R171). -/
def State.drawPixels (s : State) (ps : List (Nat × Nat)) : State :=
  (s.setDisplay (togglePixels s.fb ps).1).setFlag (togglePixels s.fb ps).2

end Sys2Proof.Machine
end

