-- ==== Sys2Proof/Machine/Alu.lean ====
section
/-!
DEFINITION. Register and ALU instructions (42_alu.md). All operands are read from `s`, before any write
(40_cycle_and_dispatch.md R94); a stored result is the true result modulo 256 (R142).
-/

namespace Sys2Proof.Machine

/-- `6xkk` (R130). -/
def execLdImm (x : Reg) (kk : Byte) (s : State) : Host.Outcome State Fault Refusal :=
  .next (s.setV x kk)

/-- `7xkk` (R131): wraps, and no flag is written. -/
def execAddImm (x : Reg) (kk : Byte) (s : State) : Host.Outcome State Fault Refusal :=
  .next (s.setV x (s.getV x + kk))

/-- `8xy0` (R132). -/
def execLdReg (x y : Reg) (s : State) : Host.Outcome State Fault Refusal :=
  .next (s.setV x (s.getV y))

/-- `8xy1` (R133): no flag. -/
def execOrReg (x y : Reg) (s : State) : Host.Outcome State Fault Refusal :=
  .next (s.setV x (s.getV x ||| s.getV y))

/-- `8xy2` (R134): no flag. -/
def execAndReg (x y : Reg) (s : State) : Host.Outcome State Fault Refusal :=
  .next (s.setV x (s.getV x &&& s.getV y))

/-- `8xy3` (R135): no flag. -/
def execXorReg (x y : Reg) (s : State) : Host.Outcome State Fault Refusal :=
  .next (s.setV x (s.getV x ^^^ s.getV y))

/-- `8xy4` (R136): the flag is the carry. -/
def execAddReg (x y : Reg) (s : State) : Host.Outcome State Fault Refusal :=
  .next (s.setVThenFlag x (s.getV x + s.getV y) (carryOut (s.getV x) (s.getV y)))

/-- `8xy5` (R137): the flag is the no-borrow of `Vx - Vy`. -/
def execSub (x y : Reg) (s : State) : Host.Outcome State Fault Refusal :=
  .next (s.setVThenFlag x (s.getV x - s.getV y) (noBorrow (s.getV x) (s.getV y)))

/-- `8xy6` (R138): a logical shift of `Vx` itself; `Vy` is neither read nor written (30_encoding.md
R78). -/
def execShr (x _y : Reg) (s : State) : Host.Outcome State Fault Refusal :=
  .next (s.setVThenFlag x (s.getV x >>> 1) (shiftedOutRight (s.getV x)))

/-- `8xy7` (R139): the flag is the no-borrow of `Vy - Vx`. -/
def execSubn (x y : Reg) (s : State) : Host.Outcome State Fault Refusal :=
  .next (s.setVThenFlag x (s.getV y - s.getV x) (noBorrow (s.getV y) (s.getV x)))

/-- `8xyE` (R140); `Vy` is neither read nor written (30_encoding.md R78). -/
def execShl (x _y : Reg) (s : State) : Host.Outcome State Fault Refusal :=
  .next (s.setVThenFlag x (s.getV x <<< 1) (shiftedOutLeft (s.getV x)))

/-- `Cxkk` (R141). -/
def execRnd (x : Reg) (kk : Byte) (s : State) : Host.Outcome State Fault Refusal :=
  .next (s.dropRandom.setV x (s.randomByte &&& kk))

end Sys2Proof.Machine
end

