-- ==== Sys2Proof/Machine/Control.lean ====
section
/-!
DEFINITION. Control transfer (41_control_flow.md). In every meaning the pc of `s` is the provisional
`pc0 + 2` (40_cycle_and_dispatch.md R92).
-/

namespace Sys2Proof.Machine

/-- `00EE` (R110, R223). -/
def execRet (s : State) : Host.Outcome State Fault Refusal :=
  .next (if s.sp.val = 0 then s.raiseIn .ret .stackUnderflow .none else s.popPc)

/-- `1nnn` (R111). -/
def execJp (nnn : Addr) (s : State) : Host.Outcome State Fault Refusal :=
  .next (s.setPc (wordOfAddr nnn))

/-- `2nnn` (R112, R222): push the provisional pc, then jump. -/
def execCall (nnn : Addr) (s : State) : Host.Outcome State Fault Refusal :=
  .next (if s.sp.val = stackDepth then s.raiseIn (.call nnn) .stackOverflow .none
    else (s.push s.pc).setPc (wordOfAddr nnn))

/-- `Bnnn` (R113): the sum is not reduced to 12 bits. -/
def execJpV0 (nnn : Addr) (s : State) : Host.Outcome State Fault Refusal :=
  .next (s.setPc (wordOfByte (s.getV 0) + wordOfAddr nnn))

/-- Skip the next instruction if the condition holds (R118). -/
def skipIf (c : Bool) (s : State) : Host.Outcome State Fault Refusal :=
  .next (if c then s.skipNext else s)

/-- `3xkk` (R114). -/
def execSeImm (x : Reg) (kk : Byte) (s : State) : Host.Outcome State Fault Refusal :=
  skipIf (s.getV x == kk) s

/-- `4xkk` (R115). -/
def execSneImm (x : Reg) (kk : Byte) (s : State) : Host.Outcome State Fault Refusal :=
  skipIf (s.getV x != kk) s

/-- `5xy0` (R116). -/
def execSeReg (x y : Reg) (s : State) : Host.Outcome State Fault Refusal :=
  skipIf (s.getV x == s.getV y) s

/-- `9xy0` (R117). -/
def execSneReg (x y : Reg) (s : State) : Host.Outcome State Fault Refusal :=
  skipIf (s.getV x != s.getV y) s

end Sys2Proof.Machine
end

