-- ==== Sys2Proof/Machine/Display.lean ====
section
/-!
DEFINITION. Display instructions (44_display.md).
-/

namespace Sys2Proof.Machine

/-- `00E0` (R170): `redraw` is set whether or not a pixel was lit. -/
def execCls (s : State) : Host.Outcome State Fault Refusal :=
  .next (s.setDisplay Framebuffer.blank)

/-- Take the fault of a set sprite bit outside the grid (60_exceptions.md R221). -/
def State.raiseFb (s : State) (i : Instr) (p : Nat × Nat) : State :=
  s.raiseIn i .outOfBounds (.fb (BitVec.ofNat 9 p.1) (BitVec.ofNat 9 p.2))

/-- What a draw does with the pixels of its set bits: under `Fault` the first one outside the grid, in
scan order, faults; under `Clip` those outside are dropped (R171, R172). -/
def State.drawAtEdge (s : State) (i : Instr) (ps : List (Nat × Nat)) : State :=
  match s.cfg.drawEdge with
  | .fault =>
    match ps.find? offGrid with
    | some p => s.raiseFb i p
    | none => s.drawPixels ps
  | .clip => s.drawPixels (ps.filter (fun p => !offGrid p))

/-- `Dxyn` (R171): memory is checked before the grid (60_exceptions.md R228), and the coordinates are
those sampled before `VF` is written (R175). -/
def execDrw (x y : Reg) (n : Nat) (s : State) : Host.Outcome State Fault Refusal :=
  .next (if s.beyondMemory n then s.raiseMem (.drw x y n)
    else s.drawAtEdge (.drw x y n) (spritePixels (s.getV x).toNat (s.getV y).toNat (s.readBytes n)))

end Sys2Proof.Machine
end

