-- ==== Sys2Proof/Machine/IndexMemory.lean ====
section
/-!
DEFINITION. Index register and memory instructions (43_index_memory.md). The bounds check covers all the
addresses of an instruction and comes before its writes (20_memory.md R53); `I` is left alone by
`Fx33`, `Fx55` and `Fx65` (R157).
-/

namespace Sys2Proof.Machine

/-- `Annn` (R150). -/
def execLdI (nnn : Addr) (s : State) : Host.Outcome State Fault Refusal :=
  .next (s.setIndex (wordOfAddr nnn))

/-- `Fx1E` (R151): modulo 65536, and no flag. -/
def execAddI (x : Reg) (s : State) : Host.Outcome State Fault Refusal :=
  .next (s.setIndex (s.index + wordOfByte (s.getV x)))

/-- `Fx29` (R152): the whole byte times 5. -/
def execLdF (x : Reg) (s : State) : Host.Outcome State Fault Refusal :=
  .next (s.setIndex (wordOfByte (s.getV x) * 5))

/-- `Fx33` (R153). -/
def execLdB (x : Reg) (s : State) : Host.Outcome State Fault Refusal :=
  .next (if s.beyondMemory 3 then s.raiseMem (.ldB x)
    else s.writeBytes (s.addrAt 0) (decimalDigits (s.getV x)))

/-- `Fx55` (R154). -/
def execLdMemVx (x : Reg) (s : State) : Host.Outcome State Fault Refusal :=
  .next (if s.beyondMemory (x.val + 1) then s.raiseMem (.ldMemVx x)
    else s.writeBytes (s.addrAt 0) (s.regsUpTo x))

/-- `Fx65` (R155). -/
def execLdVxMem (x : Reg) (s : State) : Host.Outcome State Fault Refusal :=
  .next (if s.beyondMemory (x.val + 1) then s.raiseMem (.ldVxMem x) else s.loadRegs x)

end Sys2Proof.Machine
end

