-- ==== Sys2Proof/Machine/KeypadTimers.lean ====
section
/-!
DEFINITION. Keypad and timer instructions (45_keypad_timers.md).
-/

namespace Sys2Proof.Machine

/-- `Ex9E` (R180). -/
def execSkp (x : Reg) (s : State) : Host.Outcome State Fault Refusal :=
  .next (if noSuchKey (s.getV x) then s.raiseKey (.skp x) (s.getV x)
    else if s.keyDown (s.getV x).toNat then s.skipNext else s)

/-- `ExA1` (R181). -/
def execSknp (x : Reg) (s : State) : Host.Outcome State Fault Refusal :=
  .next (if noSuchKey (s.getV x) then s.raiseKey (.sknp x) (s.getV x)
    else if s.keyDown (s.getV x).toNat then s else s.skipNext)

/-- `Fx0A` (R182): not a mode; without a key the same instruction is fetched again next cycle (R186). -/
def execLdVxK (x : Reg) (s : State) : Host.Outcome State Fault Refusal :=
  .next (match s.lowestKey with
    | some k => s.setV x (BitVec.ofNat 8 k)
    | none => s.waitHere)

/-- `Fx07` (R183): the value before this cycle's tick. -/
def execLdVxDt (x : Reg) (s : State) : Host.Outcome State Fault Refusal :=
  .next (s.setV x s.dt)

/-- `Fx15` (R184). -/
def execLdDtVx (x : Reg) (s : State) : Host.Outcome State Fault Refusal :=
  .next (s.setDt (s.getV x))

/-- `Fx18` (R185). -/
def execLdStVx (x : Reg) (s : State) : Host.Outcome State Fault Refusal :=
  .next (s.setSt (s.getV x))

end Sys2Proof.Machine
end

