-- ==== Sys2Proof/Machine/Cycle.lean ====
section
/-!
DEFINITION. The cycle, `execute_cycle` of 40_cycle_and_dispatch.md R90: fetch, pc advance, dispatch, tick,
in that order (R97).
-/

namespace Sys2Proof.Machine

/-- What a cycle that dispatches makes of the outcome of dispatch. -/
def finish : Host.Outcome State Fault Refusal → Host.Outcome State Fault Refusal
  | .next t => .next t.endCycle
  | .fault r => .fault r
  | .refused r => .refused r

/-- One cycle. A halted core does nothing (R99); a pc above 4094 and an illegal word fault (R91, R93);
otherwise the pc advances (R92), the instruction is dispatched, and the cycle ends (R96, R98). -/
def cycle (s : State) : Host.Outcome State Fault Refusal :=
  if s.halted then .next (s.setTone false)
  else if s.fetchable then
    match decodeWord s.fetchWord with
    | some i => finish (exec i s.advancePc)
    | none => .next (s.raiseIllegal s.fetchWord).endCycle
  else .next s.raiseFetch.endCycle

/-- Store a word at pc as fetch reads it: its high byte at pc, its low byte at `pc + 1` (20_memory.md
R54). -/
def State.placeWord (s : State) (w : Word) : State :=
  (s.writeMem s.pc.toNat (highByte w)).writeMem (s.pc.toNat + 1) (lowByte w)

end Sys2Proof.Machine
end

