-- ==== Sys2Proof/Machine/Step.lean ====
section
/-!
DEFINITION. The step of the machine: one `execute_cycle` (00_scope.md R5).
-/

namespace Sys2Proof.Machine

/-- One cycle (40_cycle_and_dispatch.md R90). -/
def step (s : State) : Host.Outcome State Fault Refusal := cycle s

/-- `s` with an instruction word stored where `step` fetches next. Every instruction is 16 bits; the bits
above `nbits` are zero. It stands for the host's `load_rom` at pc 0x200 (log entry 9). -/
def State.withFetchWord (s : State) (nbits w : Nat) : State :=
  s.placeWord (BitVec.ofNat 16 (w % 2 ^ nbits))

end Sys2Proof.Machine
end

