-- ==== Sys2Proof/Machine/HostOps.lean ====
section
/-!
DEFINITION. The transactions of the host (46_host_interface.md R200, 70_reset_and_hazards.md R250, R251).
Each is atomic and happens between cycles (R210). The generator behind `random` and `draws` and the
parameters in `cfg` belong to the instance and its host, so no transaction but a `Cxkk` cycle moves them.
-/

namespace Sys2Proof.Machine

/-- The cells of a memory whose 80 first bytes are zero and not the glyphs. -/
def blankGlyphs (font : Font) : List Host.Cell :=
  ((List.range fontLen).filter (fun a => Memory.unlisted font a ≠ 0)).map (fun a => (a, 0))

/-- `construct()`: power-on, every bit of state zero, no glyphs, pc 0 (70_reset_and_hazards.md R250). -/
def constructCore (s : State) : State :=
  { State.initial s.cfg with
    pc := 0, mem := blankGlyphs s.cfg.font, random := s.random, draws := s.draws }

/-- `initialize()`: reset (70_reset_and_hazards.md R251). -/
def initializeCore (s : State) : State :=
  { State.initial s.cfg with random := s.random, draws := s.draws }

/-- `load_rom(bytes)`: a ROM longer than 3584 bytes faults and writes nothing; any other is written at
0x200 upward and nothing else changes (46_host_interface.md R201, R202; 60_exceptions.md R224). -/
def loadRom (bytes : List Byte) (s : State) : State :=
  if romMax < bytes.length then s.raise .romTooLarge s.pc none (.length bytes.length)
  else s.writeBytes progBase bytes

/-- The success or failure that `load_rom` reports (46_host_interface.md R202). -/
def loadRomSucceeds (bytes : List Byte) : Bool := bytes.length ≤ romMax

/-- `set_keys(k)` (46_host_interface.md R204). -/
def setKeys (k : Vector Bool 16) (s : State) : State := { s with key := k }

/-- `read_framebuffer`: the 2048 pixels, row-major (46_host_interface.md R205). -/
def readFramebuffer (s : State) : List Bool := (s.fb.toList.map (fun row => row.toList)).flatten

/-- `read_redraw` (46_host_interface.md R207). -/
def readRedraw (s : State) : Bool := s.redraw

/-- `ack_redraw` (46_host_interface.md R207). -/
def ackRedraw (s : State) : State := { s with redraw := false }

/-- `read_fault` (46_host_interface.md R209). -/
def readFault (s : State) : Bool × Option FaultRecord := (s.halted, s.fault)

/-- Put the generator's state back after a cycle that was given its random byte from outside. -/
def restoreRandom (random : List Byte) (draws : Nat) :
    Host.Outcome State Fault Refusal → Host.Outcome State Fault Refusal
  | .next t => .next { t with random := random, draws := draws }
  | .fault r => .fault r
  | .refused r => .refused r

/-- `execute_cycle(rnd)`: one step whose random byte, should the instruction be `Cxkk`, is `rnd`
(40_cycle_and_dispatch.md R90). Its output is the field `tone` of the next state (46_host_interface.md
R208). -/
def executeCycle (rnd : Byte) (s : State) : Host.Outcome State Fault Refusal :=
  restoreRandom s.random s.draws (step { s with random := [rnd] })

/-- The transactions of 46_host_interface.md R200; `powerOn` is `construct()` and `reset` is
`initialize()`. -/
inductive Transaction where
  | powerOn
  | reset
  | loadRom (bytes : List Byte)
  | setKeys (k : Vector Bool 16)
  | executeCycle (rnd : Byte)
  | readFramebuffer
  | readRedraw
  | ackRedraw
  | readFault
deriving DecidableEq, Repr

/-- What a transaction makes of the state; the accessors change nothing (46_host_interface.md R211). -/
def transact (t : Transaction) (s : State) : Host.Outcome State Fault Refusal :=
  match t with
  | .powerOn => .next (constructCore s)
  | .reset => .next (initializeCore s)
  | .loadRom bytes => .next (loadRom bytes s)
  | .setKeys k => .next (setKeys k s)
  | .executeCycle rnd => executeCycle rnd s
  | .readFramebuffer => .next s
  | .readRedraw => .next s
  | .ackRedraw => .next (ackRedraw s)
  | .readFault => .next s

/-- What a transaction gives the host (46_host_interface.md R211). -/
inductive Reply where
  | nothing
  | loaded (success : Bool)
  | tone (tone : Bool)
  | framebuffer (pixels : List Bool)
  | redraw (redraw : Bool)
  | faultReport (halted : Bool) (fault : Option FaultRecord)
deriving DecidableEq, Repr

/-- The reply to a transaction, read from the state `after` it (46_host_interface.md R211). -/
def reply (t : Transaction) (after : State) : Reply :=
  match t with
  | .powerOn => .nothing
  | .reset => .nothing
  | .loadRom bytes => .loaded (loadRomSucceeds bytes)
  | .setKeys _ => .nothing
  | .executeCycle _ => .tone after.tone
  | .readFramebuffer => .framebuffer (readFramebuffer after)
  | .readRedraw => .redraw (readRedraw after)
  | .ackRedraw => .nothing
  | .readFault => .faultReport (readFault after).1 (readFault after).2

end Sys2Proof.Machine
end

