-- ==== Sys2Proof/Safety.lean ====
section
/-!
DEFINITION. The terms claims are stated in: a safe state, the invariant of the machine, and frames.
-/

namespace Sys2Proof.Machine

/-- A state in which the core has taken no fault. A model treats `halted` as gone wrong, not as a quiet
end (92_eei_decisions.md D5). -/
abbrev Safe (s : State) : Prop := s.halted = false

/-- A fault record that the core can hold: cause, opcode and detail go together as in the table of
60_exceptions.md R238, and the details have the ranges of R227. -/
def FaultRecord.wf (r : FaultRecord) : Bool :=
  match r.cause, r.opcode, r.detail with
  | .unrecognizedOpcode, some w, .none => (decodeWord w).isNone
  | .outOfBounds, none, .fetch a => fetchMaxPc < r.pc.toNat && memSize ≤ a.toNat
  | .outOfBounds, some w, .mem a => (decodeWord w).isSome && memSize ≤ a.toNat
  | .outOfBounds, some w, .fb c row =>
    majorOf w == 0xD && (fbWidth ≤ c.toNat || fbHeight ≤ row.toNat) && c.toNat ≤ 262 && row.toNat ≤ 269
  | .outOfBounds, some w, .key k => majorOf w == 0xE && 16 ≤ k.toNat
  | .stackOverflow, some w, .none => majorOf w == 0x2
  | .stackUnderflow, some w, .none => w == 0x00EE
  | .romTooLarge, none, .length len => romMax < len
  | _, _, _ => false

/-- The invariant: memory is in canonical form, the model's own choice (log entry 8), within 0 to 4095
(20_memory.md R50); pc and the stack entries stay in their reachable ranges (10_state.md R23, R35); a record
is held exactly while the core is halted (R33, R34, the spec's decision D2, log entry 13); and it is a
record the core can hold. -/
abbrev Inv (s : State) : Prop :=
  Memory.wf s.cfg.font s.mem ∧ s.pc.toNat ≤ 4350 ∧ (∀ k : Fin 16, s.stack[k].toNat ≤ 4096) ∧
  s.halted = s.fault.isSome ∧ ∀ r ∈ s.fault, r.wf

/-- The parts of a state, one by one. -/
inductive Part where
  | reg (r : Reg)
  | index
  | pc
  | stack (k : Fin 16)
  | sp
  | dt
  | st
  | key (k : Fin 16)
  | pixel (row : Fin 32) (col : Fin 64)
  | redraw
  | mem (a : Nat)
  | halted
  | fault
  | cfg
  | random
  | draws
  | tone
deriving DecidableEq, Repr

/-- Two states agree on a part; on memory, by the read of one byte. -/
def Same (s t : State) : Part → Prop
  | .reg r => t.getV r = s.getV r
  | .index => t.index = s.index
  | .pc => t.pc = s.pc
  | .stack k => t.stack[k] = s.stack[k]
  | .sp => t.sp = s.sp
  | .dt => t.dt = s.dt
  | .st => t.st = s.st
  | .key k => t.key[k] = s.key[k]
  | .pixel row col => t.fb.pixel row col = s.fb.pixel row col
  | .redraw => t.redraw = s.redraw
  | .mem a => t.readMem a = s.readMem a
  | .halted => t.halted = s.halted
  | .fault => t.fault = s.fault
  | .cfg => t.cfg = s.cfg
  | .random => t.random = s.random
  | .draws => t.draws = s.draws
  | .tone => t.tone = s.tone

/-- Everything but the parts in `changed` is as before. -/
def Frame (changed : Part → Prop) (s t : State) : Prop := ∀ p, ¬ changed p → Same s t p

/-- `t` is what a fault raised in the dispatch of `i` leaves of the dispatch state `s`, whose pc is the
provisional one: pc back at the instruction, the core halted, the record written, nothing else changed
(60_exceptions.md R226, R227). -/
def FaultedAt (i : Instr) (cause : Cause) (detail : Detail) (s t : State) : Prop :=
  t.pc = s.pc - 2 ∧ t.halted = true ∧
  t.fault = (if s.halted then s.fault else some ⟨cause, s.pc - 2, some (encode i), detail⟩) ∧
  Frame (fun p => p = .pc ∨ p = .halted ∨ p = .fault) s t

/-! The sprite of a draw, as 44_display.md R171 describes it -/

/-- The draw of `n` rows at `I` with its left edge in column `vx` and its top edge in row `vy` sets the
bit that falls on the pixel (`col`, `row`). -/
def spriteCovers (s : State) (vx vy n row col : Nat) : Bool :=
  vy ≤ row && row < vy + n && vx ≤ col && col < vx + 8 &&
    (s.readMem (s.index.toNat + (row - vy))).getLsbD (7 - (col - vx))

/-- The first set bit, rows first and columns within a row, that falls outside the grid: its (column, row)
(60_exceptions.md R228). -/
def firstOffGrid (s : State) (vx vy n : Nat) : Option (Nat × Nat) :=
  ((List.range n).flatMap (fun row => (List.range 8).map (fun c => (vx + c, vy + row)))).find?
    (fun p => spriteCovers s vx vy n p.2 p.1 && (63 < p.1 || 31 < p.2))

/-! The fault table (60_exceptions.md R228, R238), read from the state before the cycle -/

/-- The fault of an access from `I` whose highest address is `I + last`. -/
def memFault (s : State) (last : Nat) : Option (Cause × Detail) :=
  if 4095 < s.index.toNat + last then
    some (.outOfBounds, .mem (BitVec.ofNat 16 (max s.index.toNat 4096)))
  else none

/-- The fault of a key index above 15. -/
def keyFault (index : Byte) : Option (Cause × Detail) :=
  if 15 < index.toNat then some (.outOfBounds, .key index) else none

/-- The instruction's own check. -/
def faultOfInstr (s : State) : Instr → Option (Cause × Detail)
  | .ret => if s.sp.val = 0 then some (.stackUnderflow, .none) else none
  | .call _ => if s.sp.val = 16 then some (.stackOverflow, .none) else none
  | .ldB _ => memFault s 2
  | .ldMemVx x => memFault s x.val
  | .ldVxMem x => memFault s x.val
  | .skp x => keyFault (s.getV x)
  | .sknp x => keyFault (s.getV x)
  | .drw x y n =>
    match (if n = 0 then none else memFault s (n - 1)) with
    | some f => some f
    | none =>
      if s.cfg.drawEdge = .fault then
        (firstOffGrid s (s.getV x).toNat (s.getV y).toNat n).map
          (fun p => (.outOfBounds, .fb (BitVec.ofNat 9 p.1) (BitVec.ofNat 9 p.2)))
      else none
  | _ => none -- "all others none" (R228)

/-- The fault a cycle from `s` takes, in the order of R228: fetch, decode, the instruction's own check. -/
def faultOfCycle (s : State) : Option FaultRecord :=
  if 4094 < s.pc.toNat then
    some ⟨.outOfBounds, s.pc, none, .fetch (BitVec.ofNat 16 (max s.pc.toNat 4096))⟩
  else
    match decodeWord s.fetchWord with
    | none => some ⟨.unrecognizedOpcode, s.pc, some s.fetchWord, .none⟩
    | some i => (faultOfInstr s i).map (fun f => ⟨f.1, s.pc, some s.fetchWord, f.2⟩)

/-! Where the pc and the timers stand after a completed cycle -/

/-- How each instruction leaves pc (10_state.md R23), read from the state before the cycle. -/
def pcAfter (s : State) : Instr → Nat
  | .ret => s.top.toNat
  | .jp nnn => nnn.toNat
  | .call nnn => nnn.toNat
  | .jpV0 nnn => (s.getV 0).toNat + nnn.toNat
  | .seImm x kk => s.pc.toNat + (if s.getV x = kk then 4 else 2)
  | .sneImm x kk => s.pc.toNat + (if s.getV x = kk then 2 else 4)
  | .seReg x y => s.pc.toNat + (if s.getV x = s.getV y then 4 else 2)
  | .sneReg x y => s.pc.toNat + (if s.getV x = s.getV y then 2 else 4)
  | .skp x => s.pc.toNat + (if s.keyDown (s.getV x).toNat then 4 else 2)
  | .sknp x => s.pc.toNat + (if s.keyDown (s.getV x).toNat then 2 else 4)
  | .ldVxK _ => s.pc.toNat + (if ∃ k : Fin 16, s.key[k] = true then 2 else 0)
  | _ => s.pc.toNat + 2 -- "every instruction not named next leaves pc0 + 2" (R23)

/-- The delay timer that the tick finds: `Fx15` has set it in this cycle (40_cycle_and_dispatch.md R96). -/
def dtAtTick (s : State) : Instr → Byte
  | .ldDtVx x => s.getV x
  | _ => s.dt

/-- The sound timer that the tick finds: `Fx18` has set it in this cycle (40_cycle_and_dispatch.md R96). -/
def stAtTick (s : State) : Instr → Byte
  | .ldStVx x => s.getV x
  | _ => s.st

/-! The flag register (10_state.md R21) -/

/-- The six instructions that write `VF` as a flag (R21). -/
def writesFlag : Instr → Bool
  | .addReg _ _ => true
  | .sub _ _ => true
  | .shr _ _ => true
  | .subn _ _ => true
  | .shl _ _ => true
  | .drw _ _ _ => true
  | _ => false

/-- The instruction's own destination field selects register 15 (R21). -/
def namesFlagRegister : Instr → Bool
  | .ldImm x _ => x = 15
  | .addImm x _ => x = 15
  | .ldReg x _ => x = 15
  | .orReg x _ => x = 15
  | .andReg x _ => x = 15
  | .xorReg x _ => x = 15
  | .rnd x _ => x = 15
  | .ldVxDt x => x = 15
  | .ldVxK x => x = 15
  | .ldVxMem x => x = 15
  | _ => false

/-! The opcode map (30_encoding.md R75), as a function of the instruction -/

/-- The row of the map, counted from 0 in its order. -/
def rowOf : Instr → Nat
  | .cls => 0
  | .ret => 1
  | .jp _ => 2
  | .call _ => 3
  | .seImm _ _ => 4
  | .sneImm _ _ => 5
  | .seReg _ _ => 6
  | .sneReg _ _ => 7
  | .ldImm _ _ => 8
  | .addImm _ _ => 9
  | .ldReg _ _ => 10
  | .orReg _ _ => 11
  | .andReg _ _ => 12
  | .xorReg _ _ => 13
  | .addReg _ _ => 14
  | .sub _ _ => 15
  | .shr _ _ => 16
  | .subn _ _ => 17
  | .shl _ _ => 18
  | .ldI _ => 19
  | .jpV0 _ => 20
  | .rnd _ _ => 21
  | .drw _ _ _ => 22
  | .skp _ => 23
  | .sknp _ => 24
  | .ldVxDt _ => 25
  | .ldDtVx _ => 26
  | .ldStVx _ => 27
  | .ldVxK _ => 28
  | .addI _ => 29
  | .ldF _ => 30
  | .ldB _ => 31
  | .ldMemVx _ => 32
  | .ldVxMem _ => 33

/-- The word that the map gives the instruction, as a number: the pattern's fixed digits, and `x`, `y`, `n`,
`kk`, `nnn` at the places of 30_encoding.md R71 and R72. -/
def wordByMap : Instr → Nat
  | .cls => 0x00E0
  | .ret => 0x00EE
  | .jp nnn => 0x1000 + nnn.toNat
  | .call nnn => 0x2000 + nnn.toNat
  | .seImm x kk => 0x3000 + x.val * 0x100 + kk.toNat
  | .sneImm x kk => 0x4000 + x.val * 0x100 + kk.toNat
  | .seReg x y => 0x5000 + x.val * 0x100 + y.val * 0x10
  | .sneReg x y => 0x9000 + x.val * 0x100 + y.val * 0x10
  | .ldImm x kk => 0x6000 + x.val * 0x100 + kk.toNat
  | .addImm x kk => 0x7000 + x.val * 0x100 + kk.toNat
  | .ldReg x y => 0x8000 + x.val * 0x100 + y.val * 0x10
  | .orReg x y => 0x8001 + x.val * 0x100 + y.val * 0x10
  | .andReg x y => 0x8002 + x.val * 0x100 + y.val * 0x10
  | .xorReg x y => 0x8003 + x.val * 0x100 + y.val * 0x10
  | .addReg x y => 0x8004 + x.val * 0x100 + y.val * 0x10
  | .sub x y => 0x8005 + x.val * 0x100 + y.val * 0x10
  | .shr x y => 0x8006 + x.val * 0x100 + y.val * 0x10
  | .subn x y => 0x8007 + x.val * 0x100 + y.val * 0x10
  | .shl x y => 0x800E + x.val * 0x100 + y.val * 0x10
  | .ldI nnn => 0xA000 + nnn.toNat
  | .jpV0 nnn => 0xB000 + nnn.toNat
  | .rnd x kk => 0xC000 + x.val * 0x100 + kk.toNat
  | .drw x y n => 0xD000 + x.val * 0x100 + y.val * 0x10 + n
  | .skp x => 0xE09E + x.val * 0x100
  | .sknp x => 0xE0A1 + x.val * 0x100
  | .ldVxDt x => 0xF007 + x.val * 0x100
  | .ldDtVx x => 0xF015 + x.val * 0x100
  | .ldStVx x => 0xF018 + x.val * 0x100
  | .ldVxK x => 0xF00A + x.val * 0x100
  | .addI x => 0xF01E + x.val * 0x100
  | .ldF x => 0xF029 + x.val * 0x100
  | .ldB x => 0xF033 + x.val * 0x100
  | .ldMemVx x => 0xF055 + x.val * 0x100
  | .ldVxMem x => 0xF065 + x.val * 0x100

/-- The illegal words by major opcode, as 30_encoding.md R77 lists them. -/
def illegalByTable (w : Word) : Bool :=
  (majorOf w = 0x0 && w ≠ 0x00E0 && w ≠ 0x00EE) ||
  (majorOf w = 0x5 && minorOf w ≠ 0) ||
  (majorOf w = 0x8 && minorOf w ∈ [0x8, 0x9, 0xA, 0xB, 0xC, 0xD, 0xF]) ||
  (majorOf w = 0x9 && minorOf w ≠ 0) ||
  (majorOf w = 0xE && fieldKK w ∉ [0x9E, 0xA1]) ||
  (majorOf w = 0xF && fieldKK w ∉ [0x07, 0x0A, 0x15, 0x18, 0x1E, 0x29, 0x33, 0x55, 0x65])

end Sys2Proof.Machine
end

