-- ==== Sys2Proof/Certificates/Slice0/Obligations.lean ====
section
/-!
DEFINITION. The statements for the provers. Each docstring says which rule it formalises. In a statement
about `exec` the pc of `s` is the provisional `pc0 + 2` (40_cycle_and_dispatch.md R92).
-/

open Sys2Proof Sys2Proof.Machine

/-! Encoding -/

/-- 30_encoding.md R70, R72, R75: decoding the word or the bytes of a well-formed instruction gives it
back, with every operand. -/
def Obligations.DecodeOfEncodeGivesInstruction : Prop :=
  ∀ (i : Instr) (rest : List Byte), i.wellFormed = true →
    decodeWord (encode i) = some i ∧ decode (encodeBytes i ++ rest) = .instr i rest

/-- 30_encoding.md R71, R75, R78: no bit of a word is lost in decoding; what is decoded is well formed and
encodes to the same word. -/
def Obligations.EncodeOfDecodeGivesWord : Prop :=
  ∀ (w : Word) (i : Instr), decodeWord w = some i → i.wellFormed = true ∧ encode i = w

/-- 30_encoding.md R74, R75: the 34 patterns are disjoint, a word decodes exactly if it matches one, and the
pattern of each row is matched by exactly the words that decode to that row's instruction. -/
def Obligations.LegalWordMatchesExactlyOnePattern : Prop :=
  (∀ w : Word, opcodeRows.countP (fun row => w &&& row.2 == row.1) =
    if (decodeWord w).isSome then 1 else 0) ∧
  opcodeRows.length = 34 ∧
  ∀ (w : Word) (k : Nat) (row : Word × Word), opcodeRows[k]? = some row →
    (w &&& row.2 = row.1 ↔ ∃ i, decodeWord w = some i ∧ rowOf i = k)

/-- 30_encoding.md R71, R72, R75, R78: every row of the opcode map, with its fields at their places: a word
decodes to an instruction exactly if the instruction is well formed and the word is the one the map gives
it, and that word is what the instruction encodes to. That `5xyn` and `9xyn` with `n` not 0, and every `0nnn` but `00E0` and `00EE`, are no
instruction's is the spec's decision D24 (log entry 25). -/
def Obligations.EveryWordIsThatOfTheOpcodeMap : Prop :=
  (∀ (w : Word) (i : Instr), decodeWord w = some i ↔
    i.wellFormed = true ∧ w.toNat = wordByMap i) ∧
  ∀ i : Instr, i.wellFormed = true → (encode i).toNat = wordByMap i

/-- 30_encoding.md R77: the illegal words are exactly those of the table by major opcode. That `5xyn` and `9xyn`
with `n` not 0, and every `0nnn` but `00E0` and `00EE`, are illegal is the spec's decision D24 (log entry
25). -/
def Obligations.IllegalWordsAreThoseListed : Prop :=
  ∀ w : Word, decodeWord w = none ↔ illegalByTable w = true

/-- 30_encoding.md R75, R77: a few words, written out from the rows. That 0x5121 and 0x0000 are illegal is the
spec's decision D24 (log entry 25). -/
def Obligations.SampleWordsDecodeAsListed : Prop :=
  decodeWord 0x00E0 = some .cls ∧ decodeWord 0x2ABC = some (.call 0xABC) ∧
  decodeWord 0x7AFF = some (.addImm 10 0xFF) ∧ decodeWord 0x8126 = some (.shr 1 2) ∧
  decodeWord 0xD123 = some (.drw 1 2 3) ∧ decodeWord 0xE1A1 = some (.sknp 1) ∧
  decodeWord 0xF355 = some (.ldMemVx 3) ∧ decodeWord 0x5121 = none ∧ decodeWord 0x0000 = none

/-! The cycle -/

/-- 40_cycle_and_dispatch.md R90: when the bytes at pc decode to `i`, the step is the dispatch of `i` with
pc advanced by 2, and then the tick, or, if the dispatch faulted, no tick and no tone (the spec's decision
D3, log entry 12). The tone as a bit of each cycle is its decision D8 (log entry 20), the field that holds
it the model's (log entry 5). -/
def Obligations.StepRunsDecodedInstruction : Prop :=
  ∀ (s t : State) (i : Instr), s.halted = false → s.pc.toNat ≤ 4094 →
    decode [s.readMem s.pc.toNat, s.readMem (s.pc.toNat + 1)] = .instr i [] →
    exec i { s with pc := s.pc + 2 } = .next t →
    step s = .next (if t.halted then { t with tone := false } else
      { t with
        dt := if 0 < t.dt then t.dt - 1 else t.dt
        st := if 0 < t.st then t.st - 1 else t.st
        tone := decide (0 < t.st) })

/-- 40_cycle_and_dispatch.md R91: a fetch at pc up to 4094, odd or even, reads the big-endian word; above
4094 it faults with the lowest address beyond memory. That the fault leaves the rest alone, with this pc and
address in the record, is the spec's decisions D3 and D4 (log entry 12), `halted` and the record its D2 (log
entry 13). -/
def Obligations.FetchReadsBigEndianWordOrFaults : Prop :=
  ∀ s : State,
    (s.pc.toNat ≤ 4094 → s.fetchWord.toNat =
      (s.readMem s.pc.toNat).toNat * 256 + (s.readMem (s.pc.toNat + 1)).toNat) ∧
    (s.halted = false → 4094 < s.pc.toNat → step s = .next
      { s with
        halted := true, tone := false
        fault := some ⟨.outOfBounds, s.pc, none, .fetch (BitVec.ofNat 16 (max s.pc.toNat 4096))⟩ })

/-- 60_exceptions.md R220: an illegal word faults with its own address and the word, and no instruction
records that cause. The precise state and the pc recorded are the spec's decisions D3 and D4 (log entry 12),
`halted` and the record its D2 (log entry 13). -/
def Obligations.IllegalWordFaults : Prop :=
  (∀ (s : State) (w : Word), s.halted = false → s.pc.toNat ≤ 4094 →
    decode [s.readMem s.pc.toNat, s.readMem (s.pc.toNat + 1)] = .illegal w →
    step s = .next
      { s with
        halted := true, tone := false
        fault := some ⟨.unrecognizedOpcode, s.pc, some w, .none⟩ }) ∧
  (∀ (i : Instr) (s t : State) (r : FaultRecord), s.halted = false → exec i s = .next t →
    t.halted = true → t.fault = some r → r.cause ≠ .unrecognizedOpcode)

/-- 40_cycle_and_dispatch.md R99, 60_exceptions.md R226: a halted core changes nothing and gives no tone,
however often it is stepped. The spec's decision D5 (log entry 13). -/
def Obligations.HaltedCoreDoesNothing : Prop :=
  ∀ (s : State) (n : Nat) (b : Byte), s.halted = true →
    Sys2Proof.core.run (n + 1) s = .next { s with tone := false } ∧
    executeCycle b s = .next { s with tone := false }

/-- 40_cycle_and_dispatch.md R98, 60_exceptions.md R226, R227: a cycle that faults leaves everything but
`halted`, the record and the tone output as before the cycle, and the record names the instruction's own
address and the fetched word. The spec's decisions D3 and D4 (log entry 12) and, for `halted` and the record,
D2 (log entry 13). -/
def Obligations.FaultingCycleIsPrecise : Prop :=
  ∀ s t : State, s.halted = false → step s = .next t → t.halted = true →
    ∃ r, t = { s with halted := true, fault := some r, tone := false } ∧ r.pc = s.pc ∧
      r.opcode = if s.pc.toNat ≤ 4094 then some s.fetchWord else none

/-- 60_exceptions.md R228, R238: from every state that is not halted the cycle answers a next state, and it
faults exactly when the fault table says so, with the record the table gives. The spec's decisions D2, D4, D6, D7, D9, D12 and D14 (log entries 2, 12,
13, 14, 15, 16). -/
def Obligations.CycleFaultsExactlyAsTable : Prop :=
  ∀ s : State, s.halted = false → ∃ t, step s = .next t ∧
    t.halted = (faultOfCycle s).isSome ∧
    t.fault = (match faultOfCycle s with | some r => some r | none => s.fault)

/-- 40_cycle_and_dispatch.md R93, R100, 60_exceptions.md R225: dispatch is total, and so is the step. That a
fault is a next state is the model's reading (log entry 6). -/
def Obligations.DispatchAndStepAreTotal : Prop :=
  (∀ (i : Instr) (s : State), ∃ t, exec i s = .next t) ∧ ∀ s : State, ∃ t, step s = .next t

/-- 40_cycle_and_dispatch.md R96: after every completed cycle each timer is one less than the tick found it,
or zero, and the tone is 1 iff the sound timer was nonzero then. The tone as a bit of each cycle is the
spec's decision D8 (log entry 20), the field that holds it the model's (log entry 5). -/
def Obligations.CompletedCycleTicksBothTimers : Prop :=
  ∀ (s t : State) (i : Instr), s.halted = false → s.pc.toNat ≤ 4094 → decodeWord s.fetchWord = some i →
    step s = .next t → t.halted = false →
    t.dt.toNat = (dtAtTick s i).toNat - 1 ∧ t.st.toNat = (stAtTick s i).toNat - 1 ∧
      (t.tone = true ↔ stAtTick s i ≠ 0)

/-- 10_state.md R23: how a completed cycle of each instruction leaves pc. -/
def Obligations.CompletedCycleLeavesPcAsListed : Prop :=
  ∀ (s t : State) (i : Instr), s.halted = false → s.pc.toNat ≤ 4094 → decodeWord s.fetchWord = some i →
    step s = .next t → t.halted = false → t.pc.toNat = pcAfter s i

/-! Invariants -/

/-- The invariant `Inv` (20_memory.md R50, 10_state.md R23, R33, R34, R35, 60_exceptions.md R227, R238) is
kept by every step, from every state that meets it. Its clause on the canonical form of memory is the
model's own choice (log entry 8); `halted` and the record are the spec's decision D2 (log entry 13), the
record's pc, address and form its D4, D12 and D14 (log entries 12, 15, 16). -/
def Obligations.StepKeepsInvariant : Prop :=
  ∀ s t : State, Inv s → step s = .next t → Inv t

/-- The invariant holds at reset, and after `initialize()` whatever was before (70_reset_and_hazards.md R251,
10_state.md R35). Its clause on the canonical form of memory is the model's own choice (log entry 8);
`halted` and the record are the spec's decision D2 (log entry 13). -/
def Obligations.InvariantHoldsAtReset : Prop :=
  Inv State.reset ∧ ∀ s : State, ∃ t, transact .reset s = .next t ∧ Inv t

/-- The invariant is kept by every transaction of the host (46_host_interface.md R200). Its clause on the
canonical form of memory is the model's own choice (log entry 8); `halted` and the record are the spec's
decision D2 (log entry 13), the halt of a rejected load its D16 (log entry 18). -/
def Obligations.TransactionsKeepInvariant : Prop :=
  ∀ (tr : Transaction) (s t : State), Inv s → transact tr s = .next t → Inv t

/-- Two memories in canonical form that read alike at every address are the same list (20_memory.md R59: a
function from address to byte). The canonical form is the model's own choice (log entry 8). -/
def Obligations.CanonicalMemoriesReadAlikeAreEqual : Prop :=
  ∀ (font : Font) (m m' : List Host.Cell), Memory.wf font m → Memory.wf font m' →
    (∀ a, Memory.read font m a = Memory.read font m' a) → m = m'

/-! Whole-machine rules -/

/-- 10_state.md R28, R37: no step writes the keys or the parameters. That the parameters stand in State is the
model's choice (log entry 3). -/
def Obligations.StepNeverWritesKeysOrParameters : Prop :=
  ∀ s t : State, step s = .next t → t.key = s.key ∧ t.cfg = s.cfg

/-- 10_state.md R29, R32: the framebuffer and the redraw flag are changed only by `00E0` and `Dxyn`, and then
the flag is set; no step clears it. That the core never clears the flag is the spec's decision D13 (log
entry 17). -/
def Obligations.OnlyDisplayInstructionsChangeScreen : Prop :=
  ∀ s t : State, step s = .next t →
    (t.fb ≠ s.fb ∨ t.redraw ≠ s.redraw) →
    t.redraw = true ∧ (decodeWord s.fetchWord = some .cls ∨
      ∃ x y n, decodeWord s.fetchWord = some (.drw x y n))

/-- 20_memory.md R58, 10_state.md R38: memory is changed only by `Fx33` and `Fx55`. -/
def Obligations.OnlyStoresChangeMemory : Prop :=
  ∀ s t : State, step s = .next t → t.mem ≠ s.mem →
    ∃ x, decodeWord s.fetchWord = some (.ldB x) ∨ decodeWord s.fetchWord = some (.ldMemVx x)

/-- 10_state.md R24, R25: the stack is written only by `2nnn`, the pointer only by `2nnn` and `00EE`. -/
def Obligations.OnlyCallAndReturnMoveStack : Prop :=
  ∀ s t : State, step s = .next t →
    (t.stack ≠ s.stack → ∃ nnn, decodeWord s.fetchWord = some (.call nnn)) ∧
    (t.sp ≠ s.sp → decodeWord s.fetchWord = some .ret ∨
      ∃ nnn, decodeWord s.fetchWord = some (.call nnn))

/-- 10_state.md R21: `VF` changes only in the six flag-writing instructions and where the instruction's own
destination is register 15; a completed flag-writing instruction leaves 0 or 1. That the flag is what `VF`
holds when `x = 15` is the spec's decision D11 (log entry 11, unsafe); that `8xy1` to `8xy3` leave `VF`
alone as a flag is its D21 (log entry 22). -/
def Obligations.FlagRegisterWrittenOnlyAsListed : Prop :=
  ∀ (i : Instr) (s t : State), exec i s = .next t →
    (t.getV flagReg ≠ s.getV flagReg → writesFlag i = true ∨ namesFlagRegister i = true) ∧
    (writesFlag i = true → t.halted = false → t.getV flagReg = 0 ∨ t.getV flagReg = 1)

/-- 40_cycle_and_dispatch.md R100: a cycle is a function of the core's state and of `rnd`, whatever the
generator has ready; and only `Cxkk` depends on `rnd`: any other cycle runs alike for every `rnd`. The
fields `random` and `draws`, which hold what the generator has ready and which `step` draws from, are the
model's own choice (log entry 4). -/
def Obligations.OnlyRandomInstructionDependsOnGenerator : Prop :=
  (∀ (s t : State) (rnd : Byte) (bytes : List Byte) (n : Nat), executeCycle rnd s = .next t →
    executeCycle rnd { s with random := bytes, draws := n } =
      .next { t with random := bytes, draws := n }) ∧
  (∀ (s t : State) (bytes : List Byte) (n : Nat),
    (∀ x kk, decodeWord s.fetchWord ≠ some (.rnd x kk)) → step s = .next t →
    step { s with random := bytes, draws := n } = .next { t with random := bytes, draws := n } ∧
    ∀ rnd : Byte, executeCycle rnd s = .next t)

/-- 40_cycle_and_dispatch.md R90, 46_host_interface.md R206: the random byte of `execute_cycle` reaches
`Cxkk`, and the generator's own bytes, the model's fields of log entry 4, are not used up by it. -/
def Obligations.ExecuteCycleSuppliesRandomByte : Prop :=
  ∀ (s : State) (b kk : Byte) (x : Reg), s.halted = false → s.pc.toNat ≤ 4094 →
    decodeWord s.fetchWord = some (.rnd x kk) →
    ∃ t, executeCycle b s = .next t ∧ t.getV x = b &&& kk ∧ t.pc = s.pc + 2 ∧
      (∀ q, q ≠ x → t.getV q = s.getV q) ∧ t.random = s.random ∧ t.draws = s.draws

/-- 20_memory.md R63: an instruction word that `Fx55` wrote where the next fetch falls is what that fetch
returns, with the lower register as its high byte. -/
def Obligations.StoreIsSeenByNextFetch : Prop :=
  ∀ (s t : State) (x : Reg) (k : Fin 16) (k' : Fin 16), s.halted = false → s.pc.toNat ≤ 4094 →
    decodeWord s.fetchWord = some (.ldMemVx x) → s.index.toNat + x.val ≤ 4095 →
    s.pc.toNat + 2 = s.index.toNat + k.val → k'.val = k.val + 1 → k'.val ≤ x.val →
    step s = .next t → t.fetchWord = wordOfBytes (s.getV k) (s.getV k')

/-! Control transfer -/

/-- 41_control_flow.md R110, 60_exceptions.md R223: the return pops; on the empty stack it faults.
That the fault is precise is the spec's decisions D3 and D4 (log entry 12), `halted` and the record its D2
(log entry 13). -/
def Obligations.ReturnPopsOrFaults : Prop :=
  ∀ s : State,
    (∀ k : Fin 16, s.sp.val = k.val + 1 → ∃ t, exec .ret s = .next t ∧ t.sp.val = k.val ∧
      t.pc = s.stack[k] ∧ Frame (fun p => p = .sp ∨ p = .pc) s t) ∧
    (s.sp.val = 0 → ∃ t, exec .ret s = .next t ∧ FaultedAt .ret .stackUnderflow .none s t)

/-- 41_control_flow.md R111: the encoding, and `pc <- nnn`, zero-extended, and nothing else. -/
def Obligations.JumpSetsPc : Prop :=
  ∀ (nnn : Addr) (s : State), (encode (.jp nnn)).toNat = 0x1000 + nnn.toNat ∧ ∃ t, exec (.jp nnn) s = .next t ∧ t.pc.toNat = nnn.toNat ∧
    Frame (fun p => p = .pc) s t

/-- 41_control_flow.md R112, 60_exceptions.md R222: the call pushes the provisional pc and jumps; on the full
stack it faults. That the fault is precise is the spec's decisions D3 and D4 (log entry 12), `halted` and
the record its D2 (log entry 13). -/
def Obligations.CallPushesOrFaults : Prop :=
  ∀ (nnn : Addr) (s : State),
    (∀ k : Fin 16, s.sp.val = k.val → ∃ t, exec (.call nnn) s = .next t ∧ t.stack[k] = s.pc ∧
      t.sp.val = k.val + 1 ∧ t.pc.toNat = nnn.toNat ∧
      Frame (fun p => p = .stack k ∨ p = .sp ∨ p = .pc) s t) ∧
    (s.sp.val = 16 → ∃ t, exec (.call nnn) s = .next t ∧
      FaultedAt (.call nnn) .stackOverflow .none s t)

/-- 41_control_flow.md R113: the encoding, and `pc <- V0 + nnn`, not reduced to 12 bits. -/
def Obligations.JumpWithOffsetAddsV0 : Prop :=
  ∀ (nnn : Addr) (s : State), (encode (.jpV0 nnn)).toNat = 0xB000 + nnn.toNat ∧ ∃ t, exec (.jpV0 nnn) s = .next t ∧
    t.pc.toNat = (s.getV 0).toNat + nnn.toNat ∧ Frame (fun p => p = .pc) s t

/-- 41_control_flow.md R114 to R117: the encodings, and a skip adds 2 to the provisional pc iff its
comparison holds. -/
def Obligations.RegisterSkipsCompare : Prop :=
  ∀ (x y : Reg) (kk : Byte) (s : State),
    (encode (.seImm x kk)).toNat = 0x3000 + x.val * 0x100 + kk.toNat ∧
    (encode (.sneImm x kk)).toNat = 0x4000 + x.val * 0x100 + kk.toNat ∧
    (encode (.seReg x y)).toNat = 0x5000 + x.val * 0x100 + y.val * 0x10 ∧
    (encode (.sneReg x y)).toNat = 0x9000 + x.val * 0x100 + y.val * 0x10 ∧
    (∃ t, exec (.seImm x kk) s = .next t ∧ Frame (fun p => p = .pc) s t ∧
      t.pc = if s.getV x = kk then s.pc + 2 else s.pc) ∧
    (∃ t, exec (.sneImm x kk) s = .next t ∧ Frame (fun p => p = .pc) s t ∧
      t.pc = if s.getV x ≠ kk then s.pc + 2 else s.pc) ∧
    (∃ t, exec (.seReg x y) s = .next t ∧ Frame (fun p => p = .pc) s t ∧
      t.pc = if s.getV x = s.getV y then s.pc + 2 else s.pc) ∧
    (∃ t, exec (.sneReg x y) s = .next t ∧ Frame (fun p => p = .pc) s t ∧
      t.pc = if s.getV x ≠ s.getV y then s.pc + 2 else s.pc)

/-! Register and ALU instructions -/

/-- 42_alu.md R130, R131, R132: the encodings; load immediate, add immediate modulo 256 with no flag,
copy. -/
def Obligations.ImmediateAndCopyWriteVx : Prop :=
  ∀ (x y : Reg) (kk : Byte) (s : State),
    (encode (.ldImm x kk)).toNat = 0x6000 + x.val * 0x100 + kk.toNat ∧
    (encode (.addImm x kk)).toNat = 0x7000 + x.val * 0x100 + kk.toNat ∧
    (encode (.ldReg x y)).toNat = 0x8000 + x.val * 0x100 + y.val * 0x10 ∧
    (∃ t, exec (.ldImm x kk) s = .next t ∧ t.getV x = kk ∧ Frame (fun p => p = .reg x) s t) ∧
    (∃ t, exec (.addImm x kk) s = .next t ∧
      (t.getV x).toNat = ((s.getV x).toNat + kk.toNat) % 256 ∧ Frame (fun p => p = .reg x) s t) ∧
    (∃ t, exec (.ldReg x y) s = .next t ∧ t.getV x = s.getV y ∧ Frame (fun p => p = .reg x) s t)

/-- 42_alu.md R133, R134, R135: OR, AND, XOR bit by bit, with no flag. That `VF` is left alone is the spec's
decision D21 (log entry 22). -/
def Obligations.BitwiseInstructionsWriteVx : Prop :=
  ∀ (x y : Reg) (s : State),
    (∃ t, exec (.orReg x y) s = .next t ∧ Frame (fun p => p = .reg x) s t ∧
      ∀ k, (t.getV x).getLsbD k = ((s.getV x).getLsbD k || (s.getV y).getLsbD k)) ∧
    (∃ t, exec (.andReg x y) s = .next t ∧ Frame (fun p => p = .reg x) s t ∧
      ∀ k, (t.getV x).getLsbD k = ((s.getV x).getLsbD k && (s.getV y).getLsbD k)) ∧
    (∃ t, exec (.xorReg x y) s = .next t ∧ Frame (fun p => p = .reg x) s t ∧
      ∀ k, (t.getV x).getLsbD k = ((s.getV x).getLsbD k ^^ (s.getV y).getLsbD k))

/-- 42_alu.md R136: the sum modulo 256 and the carry; with `x = 15` the carry is what `VF` holds, the spec's
decision D11 (log entry 11). -/
def Obligations.AddWritesSumThenCarry : Prop :=
  ∀ (x y : Reg) (s : State), ∃ t, exec (.addReg x y) s = .next t ∧
    t.getV flagReg = (if 255 < (s.getV x).toNat + (s.getV y).toNat then 1 else 0) ∧
    (x ≠ flagReg → (t.getV x).toNat = ((s.getV x).toNat + (s.getV y).toNat) % 256) ∧
    Frame (fun p => p = .reg x ∨ p = .reg flagReg) s t

/-- 42_alu.md R137, R139: the difference modulo 256 and the no-borrow bit, 1 on equality too; with `x = 15`
the flag is what `VF` holds, the spec's decision D11 (log entry 11). -/
def Obligations.SubtractsWriteDifferenceThenNoBorrow : Prop :=
  ∀ (x y : Reg) (s : State),
    (∃ t, exec (.sub x y) s = .next t ∧
      t.getV flagReg = (if (s.getV x).toNat ≥ (s.getV y).toNat then 1 else 0) ∧
      (x ≠ flagReg → (t.getV x).toNat = (if (s.getV x).toNat ≥ (s.getV y).toNat
        then (s.getV x).toNat - (s.getV y).toNat
        else (s.getV x).toNat + 256 - (s.getV y).toNat)) ∧
      Frame (fun p => p = .reg x ∨ p = .reg flagReg) s t) ∧
    (∃ t, exec (.subn x y) s = .next t ∧
      t.getV flagReg = (if (s.getV y).toNat ≥ (s.getV x).toNat then 1 else 0) ∧
      (x ≠ flagReg → (t.getV x).toNat = (if (s.getV y).toNat ≥ (s.getV x).toNat
        then (s.getV y).toNat - (s.getV x).toNat
        else (s.getV y).toNat + 256 - (s.getV x).toNat)) ∧
      Frame (fun p => p = .reg x ∨ p = .reg flagReg) s t)

/-- 42_alu.md R138, R140: `Vx` moves by one position and the bit shifted out is the flag, whatever `y` is;
with `x = 15` the flag is what `VF` holds, the spec's decision D11 (log entry 11). That `Vy` is not read is
its D21 (log entry 22). -/
def Obligations.ShiftsWriteResultThenBitOut : Prop :=
  ∀ (x y : Reg) (s : State),
    (∃ t, exec (.shr x y) s = .next t ∧
      (t.getV flagReg).toNat = (s.getV x).toNat % 2 ∧
      (x ≠ flagReg → (t.getV x).toNat = (s.getV x).toNat / 2) ∧
      Frame (fun p => p = .reg x ∨ p = .reg flagReg) s t) ∧
    (∃ t, exec (.shl x y) s = .next t ∧
      (t.getV flagReg).toNat = (s.getV x).toNat / 128 ∧
      (x ≠ flagReg → (t.getV x).toNat = (s.getV x).toNat * 2 % 256) ∧
      Frame (fun p => p = .reg x ∨ p = .reg flagReg) s t)

/-- 42_alu.md R141, 46_host_interface.md R206: `Vx` is the generator's byte and `kk`. Where State lists no
byte the generator's answer is the free value of log entry 4, so the statement holds for every value. -/
def Obligations.RandomIsMaskedGeneratorByte : Prop :=
  ∀ (x : Reg) (kk : Byte) (s : State),
    (∀ (b : Byte) (bs : List Byte), s.random = b :: bs → ∃ t, exec (.rnd x kk) s = .next t ∧
      t.getV x = b &&& kk ∧ t.random = bs ∧ Frame (fun p => p = .reg x ∨ p = .random) s t) ∧
    (s.random = [] → ∃ t, exec (.rnd x kk) s = .next t ∧
      t.getV x = Config.freeRandom s.draws &&& kk ∧ t.draws = s.draws + 1 ∧
      Frame (fun p => p = .reg x ∨ p = .draws) s t)

/-! Index register and memory -/

/-- 43_index_memory.md R150, R151, R152: the encodings; load index, add to index modulo 65536 with no flag,
glyph address. -/
def Obligations.IndexInstructionsWriteIndex : Prop :=
  ∀ (x : Reg) (nnn : Addr) (s : State),
    (encode (.ldI nnn)).toNat = 0xA000 + nnn.toNat ∧
    (encode (.addI x)).toNat = 0xF01E + x.val * 0x100 ∧
    (encode (.ldF x)).toNat = 0xF029 + x.val * 0x100 ∧
    (∃ t, exec (.ldI nnn) s = .next t ∧ t.index.toNat = nnn.toNat ∧
      Frame (fun p => p = .index) s t) ∧
    (∃ t, exec (.addI x) s = .next t ∧
      t.index.toNat = (s.index.toNat + (s.getV x).toNat) % 65536 ∧
      Frame (fun p => p = .index) s t) ∧
    (∃ t, exec (.ldF x) s = .next t ∧ t.index.toNat = (s.getV x).toNat * 5 ∧
      Frame (fun p => p = .index) s t)

/-- 43_index_memory.md R153: the three digits at `I`, `I + 1`, `I + 2`, up to `I = 4093`. That `I` is
left alone is the spec's decision D21 (log entry 22). -/
def Obligations.DecimalStoreWritesThreeDigits : Prop :=
  ∀ (x : Reg) (s : State), s.index.toNat ≤ 4093 → ∃ t, exec (.ldB x) s = .next t ∧
    (t.readMem s.index.toNat).toNat = (s.getV x).toNat / 100 ∧
    (t.readMem (s.index.toNat + 1)).toNat = (s.getV x).toNat / 10 % 10 ∧
    (t.readMem (s.index.toNat + 2)).toNat = (s.getV x).toNat % 10 ∧
    Frame (fun p => ∃ k, k ≤ 2 ∧ p = .mem (s.index.toNat + k)) s t

/-- 43_index_memory.md R154, R157: `V0` to `Vx` at `I` upward, `I` and every other byte as before. That `I` does not advance is
the spec's decision D21 (log entry 22). -/
def Obligations.RegisterStoreWritesAscending : Prop :=
  ∀ (x : Reg) (s : State), s.index.toNat + x.val ≤ 4095 → ∃ t, exec (.ldMemVx x) s = .next t ∧
    (∀ r : Reg, r ≤ x → t.readMem (s.index.toNat + r.val) = s.getV r) ∧
    Frame (fun p => ∃ k, k ≤ x.val ∧ p = .mem (s.index.toNat + k)) s t

/-- 43_index_memory.md R155, R157: `V0` to `Vx` from `I` upward, `I` and every other register as before. That `I` does not
advance is the spec's decision D21 (log entry 22). -/
def Obligations.RegisterLoadReadsAscending : Prop :=
  ∀ (x : Reg) (s : State), s.index.toNat + x.val ≤ 4095 → ∃ t, exec (.ldVxMem x) s = .next t ∧
    (∀ r : Reg, r ≤ x → t.getV r = s.readMem (s.index.toNat + r.val)) ∧
    Frame (fun p => ∃ r : Reg, r ≤ x ∧ p = .reg r) s t

/-- 20_memory.md R51, R53, 60_exceptions.md R221: an access through `I` that would touch an address above
4095 faults, with nothing written and no wrap. The spec's decisions D2, D3, D4, D9 (log entries 12, 13, 14). -/
def Obligations.AccessBeyondMemoryFaults : Prop :=
  ∀ (x y : Reg) (n : Nat) (s : State),
    (4093 < s.index.toNat → ∃ t, exec (.ldB x) s = .next t ∧ FaultedAt (.ldB x) .outOfBounds
      (.mem (BitVec.ofNat 16 (max s.index.toNat 4096))) s t) ∧
    (4095 < s.index.toNat + x.val → ∃ t, exec (.ldMemVx x) s = .next t ∧
      FaultedAt (.ldMemVx x) .outOfBounds (.mem (BitVec.ofNat 16 (max s.index.toNat 4096))) s t) ∧
    (4095 < s.index.toNat + x.val → ∃ t, exec (.ldVxMem x) s = .next t ∧
      FaultedAt (.ldVxMem x) .outOfBounds (.mem (BitVec.ofNat 16 (max s.index.toNat 4096))) s t) ∧
    (0 < n → 4095 < s.index.toNat + n - 1 → ∃ t, exec (.drw x y n) s = .next t ∧
      FaultedAt (.drw x y n) .outOfBounds (.mem (BitVec.ofNat 16 (max s.index.toNat 4096))) s t)

/-! Display -/

/-- 44_display.md R170: the encoding; every pixel unlit, `redraw` set, nothing else changed. -/
def Obligations.ClearUnlightsEveryPixel : Prop :=
  encode .cls = 0x00E0 ∧ ∀ s : State, ∃ t, exec .cls s = .next t ∧
    (∀ (row : Fin 32) (col : Fin 64), t.fb.pixel row col = false) ∧ t.redraw = true ∧
    Frame (fun p => p = .redraw ∨ ∃ row col, p = .pixel row col) s t

/-- 44_display.md R171, R172, R174, R175: a draw whose bytes lie in memory, and, under `DRAW_EDGE = Fault`,
whose set bits lie in the grid, toggles exactly the pixels under set bits, sets `VF` to the collision and
sets `redraw`. It covers `n = 0`, `x = 15`, `y = 15` and `Clip`. The sampled coordinates are the spec's
decision D10 (log entry 10), the edge its decision D7 (log entry 2). -/
def Obligations.DrawTogglesPixelsUnderSetBits : Prop :=
  ∀ (x y : Reg) (n : Nat) (s : State), (n = 0 ∨ s.index.toNat + n - 1 ≤ 4095) →
    (s.cfg.drawEdge = .fault → ∀ row col, spriteCovers s (s.getV x).toNat (s.getV y).toNat n row col →
      row ≤ 31 ∧ col ≤ 63) →
    ∃ t, exec (.drw x y n) s = .next t ∧
      (∀ (row : Fin 32) (col : Fin 64), t.fb.pixel row col =
        (s.fb.pixel row col ^^ spriteCovers s (s.getV x).toNat (s.getV y).toNat n row col)) ∧
      t.getV flagReg = (if ∃ (row : Fin 32) (col : Fin 64), s.fb.pixel row col = true ∧
        spriteCovers s (s.getV x).toNat (s.getV y).toNat n row col = true then 1 else 0) ∧
      t.redraw = true ∧
      Frame (fun p => p = .redraw ∨ p = .reg flagReg ∨ ∃ row col, p = .pixel row col) s t

/-- 44_display.md R171, R172, 60_exceptions.md R228: under `DRAW_EDGE = Fault` a draw whose bytes lie in memory
and that has a set bit outside the grid faults with the first one in scan order, and draws nothing. The
spec's decisions D2, D3, D4, D6, D7 and D9 (log entries 2, 12, 13, 14, 16). -/
def Obligations.DrawOffGridFaultsUnderFaultPolicy : Prop :=
  ∀ (x y : Reg) (n : Nat) (s : State) (p : Nat × Nat), (n = 0 ∨ s.index.toNat + n - 1 ≤ 4095) →
    s.cfg.drawEdge = .fault → firstOffGrid s (s.getV x).toNat (s.getV y).toNat n = some p →
    ∃ t, exec (.drw x y n) s = .next t ∧ FaultedAt (.drw x y n) .outOfBounds
      (.fb (BitVec.ofNat 9 p.1) (BitVec.ofNat 9 p.2)) s t

/-- 44_display.md R173(c): the same draw twice, neither faulting, restores the framebuffer; the second one
reports a collision exactly if some pixel under a set bit, in the grid, was unlit before the first. The
coordinates are not in `VF`, which the first draw overwrites. -/
def Obligations.DrawingTwiceRestoresScreen : Prop :=
  ∀ (x y : Reg) (n : Nat) (s t u : State), x ≠ flagReg → y ≠ flagReg → u.halted = false →
    exec (.drw x y n) s = .next t → exec (.drw x y n) t = .next u →
    u.fb = s.fb ∧ (u.getV flagReg = 1 ↔ ∃ (row : Fin 32) (col : Fin 64),
      s.fb.pixel row col = false ∧
      spriteCovers s (s.getV x).toNat (s.getV y).toNat n row col = true)

/-! Keypad and timers -/

/-- 45_keypad_timers.md R180, R181: the key skips test the key numbered `Vx`; a number above 15 faults, the
spec's decision D12 (log entry 15), precisely, its D3 and D4 (log entry 12), with `halted` and the record,
its D2 (log entry 13). -/
def Obligations.KeySkipsTestKeyOrFault : Prop :=
  ∀ (x : Reg) (s : State),
    (∀ k : Fin 16, (s.getV x).toNat = k.val →
      (∃ t, exec (.skp x) s = .next t ∧ Frame (fun p => p = .pc) s t ∧
        t.pc = if s.key[k] = true then s.pc + 2 else s.pc) ∧
      (∃ t, exec (.sknp x) s = .next t ∧ Frame (fun p => p = .pc) s t ∧
        t.pc = if s.key[k] = false then s.pc + 2 else s.pc)) ∧
    (15 < (s.getV x).toNat →
      (∃ t, exec (.skp x) s = .next t ∧
        FaultedAt (.skp x) .outOfBounds (.key (s.getV x)) s t) ∧
      (∃ t, exec (.sknp x) s = .next t ∧
        FaultedAt (.sknp x) .outOfBounds (.key (s.getV x)) s t))

/-- 45_keypad_timers.md R182: the encoding; with a key pressed the least one goes to `Vx` and pc stays at `pc0 + 2`; with
none, pc goes back to `pc0` and nothing else changes. -/
def Obligations.KeyWaitLatchesLowestKey : Prop :=
  ∀ (x : Reg) (s : State),
    (encode (.ldVxK x)).toNat = 0xF00A + x.val * 0x100 ∧
    (∀ k : Fin 16, s.key[k] = true → (∀ j : Fin 16, j < k → s.key[j] = false) →
      ∃ t, exec (.ldVxK x) s = .next t ∧ (t.getV x).toNat = k.val ∧
        Frame (fun p => p = .reg x) s t) ∧
    ((∀ k : Fin 16, s.key[k] = false) →
      ∃ t, exec (.ldVxK x) s = .next t ∧ t.pc = s.pc - 2 ∧ Frame (fun p => p = .pc) s t)

/-- 45_keypad_timers.md R183, R184, R185: the encodings, and the timer moves, before the tick of their own
cycle. -/
def Obligations.TimerInstructionsMoveTimers : Prop :=
  ∀ (x : Reg) (s : State),
    (encode (.ldVxDt x)).toNat = 0xF007 + x.val * 0x100 ∧
    (encode (.ldDtVx x)).toNat = 0xF015 + x.val * 0x100 ∧
    (encode (.ldStVx x)).toNat = 0xF018 + x.val * 0x100 ∧
    (∃ t, exec (.ldVxDt x) s = .next t ∧ t.getV x = s.dt ∧ Frame (fun p => p = .reg x) s t) ∧
    (∃ t, exec (.ldDtVx x) s = .next t ∧ t.dt = s.getV x ∧ Frame (fun p => p = .dt) s t) ∧
    (∃ t, exec (.ldStVx x) s = .next t ∧ t.st = s.getV x ∧ Frame (fun p => p = .st) s t)

/-! The host -/

/-- 70_reset_and_hazards.md R251, R252, 10_state.md R35, 46_host_interface.md R211: `initialize()` leaves every
part at the value the spec states, whatever was before, and `State.reset` is such a state. The fields
`halted` and `fault` are the spec's decision D2 (log entry 13), `sp` its D23 (log entry 24); `cfg`, `tone`,
`random` and `draws` are the model's (log entries 3, 4, 5). -/
def Obligations.InitializeLeavesResetState : Prop :=
  (∀ s : State, ∃ t, transact .reset s = .next t ∧ reply .reset t = .nothing ∧
    (∀ a : Nat, t.readMem a = if h : a < 80 then s.cfg.font[a] else 0) ∧
    (∀ r, t.getV r = 0) ∧ t.index = 0 ∧ t.pc = 0x200 ∧ (∀ k : Fin 16, t.stack[k] = 0) ∧ t.sp = 0 ∧
    t.dt = 0 ∧ t.st = 0 ∧ (∀ k : Fin 16, t.key[k] = false) ∧
    (∀ (row : Fin 32) (col : Fin 64), t.fb.pixel row col = false) ∧ t.redraw = false ∧
    t.halted = false ∧ t.fault = none ∧ t.tone = false ∧ t.cfg = s.cfg ∧ t.random = s.random ∧
    t.draws = s.draws ∧ transact .reset t = .next t) ∧
  transact .reset State.reset = .next State.reset

/-- 70_reset_and_hazards.md R250, R255, 46_host_interface.md R211: `construct()` leaves every part zero, glyphs
and pc included, so the first cycle after it faults on the word 0x0000 at pc 0 (log entries 12, 13, 23). -/
def Obligations.ConstructLeavesZeroState : Prop :=
  ∀ s : State, ∃ t, transact .powerOn s = .next t ∧ reply .powerOn t = .nothing ∧
    (∀ a : Nat, t.readMem a = 0) ∧ (∀ r, t.getV r = 0) ∧ t.index = 0 ∧ t.pc = 0 ∧
    (∀ k : Fin 16, t.stack[k] = 0) ∧ t.sp = 0 ∧ t.dt = 0 ∧ t.st = 0 ∧
    (∀ k : Fin 16, t.key[k] = false) ∧
    (∀ (row : Fin 32) (col : Fin 64), t.fb.pixel row col = false) ∧ t.redraw = false ∧
    t.halted = false ∧ t.fault = none ∧ t.cfg = s.cfg ∧
    step t = .next { t with halted := true, fault := some ⟨.unrecognizedOpcode, 0, some 0, .none⟩ }

/-- 46_host_interface.md R201, R202, R211, 60_exceptions.md R224: a ROM of at most 3584 bytes is written at
0x200 upward, nothing else changes, and success is reported; a longer one is rejected with the RomTooLarge
fault and failure reported, memory as before. That it halts the core is the spec's decision D16 (log entry
18). -/
def Obligations.LoadRomWritesOrRejects : Prop :=
  ∀ (bytes : List Byte) (s : State), ∃ t, transact (.loadRom bytes) s = .next t ∧
    (bytes.length ≤ 3584 →
      (∀ (k : Nat) (h : k < bytes.length), t.readMem (0x200 + k) = bytes[k]) ∧
      reply (.loadRom bytes) t = .loaded true ∧
      Frame (fun p => ∃ k, k < bytes.length ∧ p = .mem (0x200 + k)) s t) ∧
    (3584 < bytes.length →
      t.halted = true ∧ reply (.loadRom bytes) t = .loaded false ∧
      t.fault = (if s.halted then s.fault else
        some ⟨.romTooLarge, s.pc, none, .length bytes.length⟩) ∧
      Frame (fun p => p = .halted ∨ p = .fault) s t)

/-- 70_reset_and_hazards.md R254: after `initialize()` and `load_rom(bytes)` the glyphs stand at 0 to 79, zero
from 80 to 511, and the first fetch reads the first two bytes of the ROM, big-endian. -/
def Obligations.LoadAfterInitializeKeepsLowMemory : Prop :=
  ∀ (bytes : List Byte) (s : State), bytes.length ≤ 3584 →
    ∃ u t, transact .reset s = .next u ∧ transact (.loadRom bytes) u = .next t ∧
      (∀ a : Nat, a < 512 → t.readMem a = if h : a < 80 then s.cfg.font[a] else 0) ∧
      (∀ b b' rest, bytes = b :: b' :: rest → t.fetchWord.toNat = b.toNat * 256 + b'.toNat)

/-- 46_host_interface.md R204: the sixteen keys take the host's values, and nothing else changes; no other
operation but the two resets writes a key, the cycle included. -/
def Obligations.SetKeysWritesAllKeysOnly : Prop :=
  (∀ (k : Vector Bool 16) (s : State), ∃ t, transact (.setKeys k) s = .next t ∧
    reply (.setKeys k) t = .nothing ∧ (∀ j : Fin 16, t.key[j] = k[j]) ∧ Frame (fun p => ∃ j, p = .key j) s t) ∧
  (∀ (tr : Transaction) (s t : State), transact tr s = .next t → (∀ k, tr ≠ .setKeys k) →
    tr ≠ .powerOn → tr ≠ .reset → t.key = s.key)

/-- 46_host_interface.md R207, R211: `read_redraw` gives the flag and changes nothing; `ack_redraw` clears the
flag and nothing else; after it the framebuffer does not change until a step sets the flag again. The host
clears the flag: the spec's decision D13 (log entry 17). -/
def Obligations.AcknowledgedRedrawMeansUnchangedScreen : Prop :=
  ∀ s : State, transact .readRedraw s = .next s ∧ reply .readRedraw s = .redraw s.redraw ∧
    ∃ u, transact .ackRedraw s = .next u ∧ reply .ackRedraw u = .nothing ∧ u.redraw = false ∧
      Frame (fun p => p = .redraw) s u ∧
      ∀ (n : Nat) (t : State), Sys2Proof.core.run n u = .next t → t.redraw = false → t.fb = s.fb

/-- 46_host_interface.md R205, 10_state.md R29: the accessor gives 2048 pixels row-major, element
`row * 64 + col` being `FB[row][col]`, and reading changes nothing. -/
def Obligations.FramebufferIsReadRowMajor : Prop :=
  ∀ s : State, transact .readFramebuffer s = .next s ∧
    ∃ pixels : List Bool, reply .readFramebuffer s = .framebuffer pixels ∧ pixels.length = 2048 ∧
      ∀ (row : Fin 32) (col : Fin 64), pixels[row.val * 64 + col.val]? = some (s.fb.pixel row col)

/-- 46_host_interface.md R200, R206, R208, R209, R211, 40_cycle_and_dispatch.md R90, R98, R99: `execute_cycle`
is one step whose random byte is the one the host gives, and gives the host the tone of that cycle, none
where the core is halted after it; `read_fault` gives `halted` and the record and changes nothing. The
fields `random`, `draws` and `tone` are the model's (log entries 4, 5), `halted` and the record the spec's
decision D2, no tone after a fault its D3 and D5 (log entries 12, 13), the tone as a bit of each cycle its D8
(log entry 20). -/
def Obligations.CycleRepliesToneAndFaultIsReported : Prop :=
  (∀ (rnd : Byte) (s : State), transact (.executeCycle rnd) s = executeCycle rnd s ∧
    ∃ u t, step { s with random := [rnd] } = .next u ∧ transact (.executeCycle rnd) s = .next t ∧
      t = { u with random := s.random, draws := s.draws } ∧
      reply (.executeCycle rnd) t = .tone t.tone ∧ (t.halted = true → t.tone = false)) ∧
  (∀ s : State, transact .readFault s = .next s ∧
    reply .readFault s = .faultReport s.halted s.fault)

/-- 60_exceptions.md R226, R232, 46_host_interface.md R209: only `construct()` and `initialize()` end the halted
state, and no other transaction changes the first fault's record (log entries 13, 18). -/
def Obligations.OnlyResetEndsHaltedState : Prop :=
  ∀ (tr : Transaction) (s t : State), transact tr s = .next t → s.halted = true →
    tr ≠ .powerOn → tr ≠ .reset → t.halted = true ∧ t.fault = s.fault

/-- 46_host_interface.md R210: no transaction but the cycle and the two resets writes a register, pc, a timer,
the stack, the framebuffer or a byte below 0x200. -/
def Obligations.HostCannotWriteProgramState : Prop :=
  ∀ (tr : Transaction) (s t : State), transact tr s = .next t →
    tr ≠ .powerOn → tr ≠ .reset → (∀ b, tr ≠ .executeCycle b) →
    t.v = s.v ∧ t.index = s.index ∧ t.pc = s.pc ∧ t.dt = s.dt ∧ t.st = s.st ∧ t.stack = s.stack ∧
    t.sp = s.sp ∧ t.fb = s.fb ∧ ∀ a : Nat, a < 0x200 → t.readMem a = s.readMem a
end

