-- ==== Sys2Proof/Laws/Decode.lean ====
section
/-!
SUPPORT. The fields of an encoded word, the masks of the formats (30_encoding.md R72), and a word put
together again from its fields.
-/

namespace Sys2Proof

/-! The mask of a format keeps the fixed bits and clears the fields -/

theorem encodeNNN_masked (major : Nibble) (nnn : Addr) :
    encodeNNN major nnn &&& 0xF000 = encodeNNN major 0 := by
  apply BitVec.eq_of_getLsbD_eq
  intro k hk
  simp only [encodeNNN, BitVec.getLsbD_and, BitVec.getLsbD_append]
  interval_cases k <;> simp

theorem encodeXKK_masked (major : Nibble) (x : Reg) (kk : Byte) :
    encodeXKK major x kk &&& 0xF000 = encodeXKK major 0 0 := by
  apply BitVec.eq_of_getLsbD_eq
  intro k hk
  simp only [encodeXKK, BitVec.getLsbD_and, BitVec.getLsbD_append]
  interval_cases k <;> simp [nibbleOfReg]

theorem encodeX_masked (major : Nibble) (x : Reg) (kk : Byte) :
    encodeXKK major x kk &&& 0xF0FF = encodeXKK major 0 kk := by
  apply BitVec.eq_of_getLsbD_eq
  intro k hk
  simp only [encodeXKK, BitVec.getLsbD_and, BitVec.getLsbD_append]
  interval_cases k <;> simp [nibbleOfReg]

theorem encodeXY_masked (major : Nibble) (x y : Reg) (n : Nibble) :
    encodeXYN major x y n &&& 0xF00F = encodeXYN major 0 0 n := by
  apply BitVec.eq_of_getLsbD_eq
  intro k hk
  simp only [encodeXYN, BitVec.getLsbD_and, BitVec.getLsbD_append]
  interval_cases k <;> simp [nibbleOfReg]

theorem encodeXYN_masked (major : Nibble) (x y : Reg) (n : Nibble) :
    encodeXYN major x y n &&& 0xF000 = encodeXYN major 0 0 0 := by
  apply BitVec.eq_of_getLsbD_eq
  intro k hk
  simp only [encodeXYN, BitVec.getLsbD_and, BitVec.getLsbD_append]
  interval_cases k <;> simp [nibbleOfReg]

/-! The fields of an encoded word -/

@[simp] theorem regOfNibble_nibbleOfReg (r : Reg) : regOfNibble (nibbleOfReg r) = r := rfl

@[simp] theorem majorOf_encodeNNN (major : Nibble) (nnn : Addr) :
    majorOf (encodeNNN major nnn) = major := by
  apply BitVec.eq_of_getLsbD_eq
  intro k hk
  simp only [majorOf, encodeNNN, BitVec.getLsbD_extractLsb', BitVec.getLsbD_append]
  interval_cases k <;> simp

@[simp] theorem fieldNNN_encodeNNN (major : Nibble) (nnn : Addr) :
    fieldNNN (encodeNNN major nnn) = nnn := by
  apply BitVec.eq_of_getLsbD_eq
  intro k hk
  simp only [fieldNNN, encodeNNN, BitVec.getLsbD_extractLsb', BitVec.getLsbD_append]
  interval_cases k <;> simp

@[simp] theorem majorOf_encodeXKK (major : Nibble) (x : Reg) (kk : Byte) :
    majorOf (encodeXKK major x kk) = major := by
  apply BitVec.eq_of_getLsbD_eq
  intro k hk
  simp only [majorOf, encodeXKK, BitVec.getLsbD_extractLsb', BitVec.getLsbD_append]
  interval_cases k <;> simp

@[simp] theorem fieldX_encodeXKK (major : Nibble) (x : Reg) (kk : Byte) :
    fieldX (encodeXKK major x kk) = x := by
  rw [← regOfNibble_nibbleOfReg x, fieldX]
  congr 1
  apply BitVec.eq_of_getLsbD_eq
  intro k hk
  simp only [encodeXKK, BitVec.getLsbD_extractLsb', BitVec.getLsbD_append]
  interval_cases k <;> simp

@[simp] theorem fieldKK_encodeXKK (major : Nibble) (x : Reg) (kk : Byte) :
    fieldKK (encodeXKK major x kk) = kk := by
  apply BitVec.eq_of_getLsbD_eq
  intro k hk
  simp only [fieldKK, encodeXKK, BitVec.getLsbD_extractLsb', BitVec.getLsbD_append]
  interval_cases k <;> simp

@[simp] theorem majorOf_encodeXYN (major : Nibble) (x y : Reg) (n : Nibble) :
    majorOf (encodeXYN major x y n) = major := by
  apply BitVec.eq_of_getLsbD_eq
  intro k hk
  simp only [majorOf, encodeXYN, BitVec.getLsbD_extractLsb', BitVec.getLsbD_append]
  interval_cases k <;> simp

@[simp] theorem fieldX_encodeXYN (major : Nibble) (x y : Reg) (n : Nibble) :
    fieldX (encodeXYN major x y n) = x := by
  rw [← regOfNibble_nibbleOfReg x, fieldX]
  congr 1
  apply BitVec.eq_of_getLsbD_eq
  intro k hk
  simp only [encodeXYN, BitVec.getLsbD_extractLsb', BitVec.getLsbD_append]
  interval_cases k <;> simp

@[simp] theorem fieldY_encodeXYN (major : Nibble) (x y : Reg) (n : Nibble) :
    fieldY (encodeXYN major x y n) = y := by
  rw [← regOfNibble_nibbleOfReg y, fieldY]
  congr 1
  apply BitVec.eq_of_getLsbD_eq
  intro k hk
  simp only [encodeXYN, BitVec.getLsbD_extractLsb', BitVec.getLsbD_append]
  interval_cases k <;> simp

@[simp] theorem minorOf_encodeXYN (major : Nibble) (x y : Reg) (n : Nibble) :
    minorOf (encodeXYN major x y n) = n := by
  apply BitVec.eq_of_getLsbD_eq
  intro k hk
  simp only [minorOf, encodeXYN, BitVec.getLsbD_extractLsb', BitVec.getLsbD_append]
  interval_cases k <;> simp

/-! An encoded word as a number -/

theorem toNat_append_field {m n : Nat} (a : BitVec m) (b : BitVec n) :
    (a ++ b).toNat = a.toNat * 2 ^ n + b.toNat := by
  rw [BitVec.toNat_append, ← Nat.shiftLeft_add_eq_or_of_lt b.isLt, Nat.shiftLeft_eq]

theorem nibbleOfReg_toNat (r : Reg) : (nibbleOfReg r).toNat = r.val := rfl

theorem encodeNNN_toNat (major : Nibble) (nnn : Addr) :
    (encodeNNN major nnn).toNat = major.toNat * 0x1000 + nnn.toNat := by
  rw [encodeNNN, toNat_append_field]
  omega

theorem encodeXKK_toNat (major : Nibble) (x : Reg) (kk : Byte) :
    (encodeXKK major x kk).toNat = major.toNat * 0x1000 + x.val * 0x100 + kk.toNat := by
  rw [encodeXKK, toNat_append_field, toNat_append_field, nibbleOfReg_toNat]
  omega

theorem encodeXYN_toNat (major : Nibble) (x y : Reg) (n : Nibble) :
    (encodeXYN major x y n).toNat =
      major.toNat * 0x1000 + x.val * 0x100 + y.val * 0x10 + n.toNat := by
  rw [encodeXYN, toNat_append_field, toNat_append_field, toNat_append_field, nibbleOfReg_toNat,
    nibbleOfReg_toNat]
  omega

/-! A word is put together again from its fields -/

theorem nibbleOfReg_regOfNibble (b : Nibble) : nibbleOfReg (regOfNibble b) = b := rfl

theorem encodeNNN_fields (w : Word) : encodeNNN (majorOf w) (fieldNNN w) = w := by
  apply BitVec.eq_of_getLsbD_eq
  intro k hk
  simp only [majorOf, fieldNNN, encodeNNN, BitVec.getLsbD_extractLsb', BitVec.getLsbD_append]
  interval_cases k <;> simp

theorem encodeXKK_fields (w : Word) : encodeXKK (majorOf w) (fieldX w) (fieldKK w) = w := by
  apply BitVec.eq_of_getLsbD_eq
  intro k hk
  simp only [majorOf, fieldX, fieldKK, encodeXKK, nibbleOfReg_regOfNibble,
    BitVec.getLsbD_extractLsb', BitVec.getLsbD_append]
  interval_cases k <;> simp

theorem encodeXYN_fields (w : Word) :
    encodeXYN (majorOf w) (fieldX w) (fieldY w) (minorOf w) = w := by
  apply BitVec.eq_of_getLsbD_eq
  intro k hk
  simp only [majorOf, fieldX, fieldY, minorOf, encodeXYN, nibbleOfReg_regOfNibble,
    BitVec.getLsbD_extractLsb', BitVec.getLsbD_append]
  interval_cases k <;> simp

/-- The two bytes of a word make the word again. -/
@[simp] theorem wordOfBytes_bytes (w : Word) : wordOfBytes (highByte w) (lowByte w) = w := by
  apply BitVec.eq_of_getLsbD_eq
  intro k hk
  simp only [wordOfBytes, highByte, lowByte, BitVec.getLsbD_extractLsb', BitVec.getLsbD_append]
  interval_cases k <;> simp

end Sys2Proof
end

