-- ==== Sys2Proof/Laws/State.lean ====
section
/-!
SUPPORT. The small lemmas of State: for every update, what it makes of every field, and what the derived
operations are made of. With these no proof unfolds a record update.
-/

namespace Sys2Proof.Machine

variable (s : State)


@[simp] theorem State.setV_v (r : Reg) (b : Byte) : (s.setV r b).v = s.v.set r b := rfl
@[simp] theorem State.setV_index (r : Reg) (b : Byte) : (s.setV r b).index = s.index := rfl
@[simp] theorem State.setV_pc (r : Reg) (b : Byte) : (s.setV r b).pc = s.pc := rfl
@[simp] theorem State.setV_stack (r : Reg) (b : Byte) : (s.setV r b).stack = s.stack := rfl
@[simp] theorem State.setV_sp (r : Reg) (b : Byte) : (s.setV r b).sp = s.sp := rfl
@[simp] theorem State.setV_dt (r : Reg) (b : Byte) : (s.setV r b).dt = s.dt := rfl
@[simp] theorem State.setV_st (r : Reg) (b : Byte) : (s.setV r b).st = s.st := rfl
@[simp] theorem State.setV_key (r : Reg) (b : Byte) : (s.setV r b).key = s.key := rfl
@[simp] theorem State.setV_fb (r : Reg) (b : Byte) : (s.setV r b).fb = s.fb := rfl
@[simp] theorem State.setV_redraw (r : Reg) (b : Byte) : (s.setV r b).redraw = s.redraw := rfl
@[simp] theorem State.setV_mem (r : Reg) (b : Byte) : (s.setV r b).mem = s.mem := rfl
@[simp] theorem State.setV_halted (r : Reg) (b : Byte) : (s.setV r b).halted = s.halted := rfl
@[simp] theorem State.setV_fault (r : Reg) (b : Byte) : (s.setV r b).fault = s.fault := rfl
@[simp] theorem State.setV_cfg (r : Reg) (b : Byte) : (s.setV r b).cfg = s.cfg := rfl
@[simp] theorem State.setV_random (r : Reg) (b : Byte) : (s.setV r b).random = s.random := rfl
@[simp] theorem State.setV_draws (r : Reg) (b : Byte) : (s.setV r b).draws = s.draws := rfl
@[simp] theorem State.setV_tone (r : Reg) (b : Byte) : (s.setV r b).tone = s.tone := rfl
@[simp] theorem State.setV_readMem (r : Reg) (b : Byte) (a : Nat) : (s.setV r b).readMem a = s.readMem a := rfl

@[simp] theorem State.setIndex_v (w : Word) : (s.setIndex w).v = s.v := rfl
@[simp] theorem State.setIndex_index (w : Word) : (s.setIndex w).index = w := rfl
@[simp] theorem State.setIndex_pc (w : Word) : (s.setIndex w).pc = s.pc := rfl
@[simp] theorem State.setIndex_stack (w : Word) : (s.setIndex w).stack = s.stack := rfl
@[simp] theorem State.setIndex_sp (w : Word) : (s.setIndex w).sp = s.sp := rfl
@[simp] theorem State.setIndex_dt (w : Word) : (s.setIndex w).dt = s.dt := rfl
@[simp] theorem State.setIndex_st (w : Word) : (s.setIndex w).st = s.st := rfl
@[simp] theorem State.setIndex_key (w : Word) : (s.setIndex w).key = s.key := rfl
@[simp] theorem State.setIndex_fb (w : Word) : (s.setIndex w).fb = s.fb := rfl
@[simp] theorem State.setIndex_redraw (w : Word) : (s.setIndex w).redraw = s.redraw := rfl
@[simp] theorem State.setIndex_mem (w : Word) : (s.setIndex w).mem = s.mem := rfl
@[simp] theorem State.setIndex_halted (w : Word) : (s.setIndex w).halted = s.halted := rfl
@[simp] theorem State.setIndex_fault (w : Word) : (s.setIndex w).fault = s.fault := rfl
@[simp] theorem State.setIndex_cfg (w : Word) : (s.setIndex w).cfg = s.cfg := rfl
@[simp] theorem State.setIndex_random (w : Word) : (s.setIndex w).random = s.random := rfl
@[simp] theorem State.setIndex_draws (w : Word) : (s.setIndex w).draws = s.draws := rfl
@[simp] theorem State.setIndex_tone (w : Word) : (s.setIndex w).tone = s.tone := rfl
@[simp] theorem State.setIndex_readMem (w : Word) (a : Nat) : (s.setIndex w).readMem a = s.readMem a := rfl
@[simp] theorem State.setIndex_getV (w : Word) (q : Reg) : (s.setIndex w).getV q = s.getV q := rfl

@[simp] theorem State.setPc_v (w : Word) : (s.setPc w).v = s.v := rfl
@[simp] theorem State.setPc_index (w : Word) : (s.setPc w).index = s.index := rfl
@[simp] theorem State.setPc_pc (w : Word) : (s.setPc w).pc = w := rfl
@[simp] theorem State.setPc_stack (w : Word) : (s.setPc w).stack = s.stack := rfl
@[simp] theorem State.setPc_sp (w : Word) : (s.setPc w).sp = s.sp := rfl
@[simp] theorem State.setPc_dt (w : Word) : (s.setPc w).dt = s.dt := rfl
@[simp] theorem State.setPc_st (w : Word) : (s.setPc w).st = s.st := rfl
@[simp] theorem State.setPc_key (w : Word) : (s.setPc w).key = s.key := rfl
@[simp] theorem State.setPc_fb (w : Word) : (s.setPc w).fb = s.fb := rfl
@[simp] theorem State.setPc_redraw (w : Word) : (s.setPc w).redraw = s.redraw := rfl
@[simp] theorem State.setPc_mem (w : Word) : (s.setPc w).mem = s.mem := rfl
@[simp] theorem State.setPc_halted (w : Word) : (s.setPc w).halted = s.halted := rfl
@[simp] theorem State.setPc_fault (w : Word) : (s.setPc w).fault = s.fault := rfl
@[simp] theorem State.setPc_cfg (w : Word) : (s.setPc w).cfg = s.cfg := rfl
@[simp] theorem State.setPc_random (w : Word) : (s.setPc w).random = s.random := rfl
@[simp] theorem State.setPc_draws (w : Word) : (s.setPc w).draws = s.draws := rfl
@[simp] theorem State.setPc_tone (w : Word) : (s.setPc w).tone = s.tone := rfl
@[simp] theorem State.setPc_readMem (w : Word) (a : Nat) : (s.setPc w).readMem a = s.readMem a := rfl
@[simp] theorem State.setPc_getV (w : Word) (q : Reg) : (s.setPc w).getV q = s.getV q := rfl

@[simp] theorem State.setDt_v (b : Byte) : (s.setDt b).v = s.v := rfl
@[simp] theorem State.setDt_index (b : Byte) : (s.setDt b).index = s.index := rfl
@[simp] theorem State.setDt_pc (b : Byte) : (s.setDt b).pc = s.pc := rfl
@[simp] theorem State.setDt_stack (b : Byte) : (s.setDt b).stack = s.stack := rfl
@[simp] theorem State.setDt_sp (b : Byte) : (s.setDt b).sp = s.sp := rfl
@[simp] theorem State.setDt_dt (b : Byte) : (s.setDt b).dt = b := rfl
@[simp] theorem State.setDt_st (b : Byte) : (s.setDt b).st = s.st := rfl
@[simp] theorem State.setDt_key (b : Byte) : (s.setDt b).key = s.key := rfl
@[simp] theorem State.setDt_fb (b : Byte) : (s.setDt b).fb = s.fb := rfl
@[simp] theorem State.setDt_redraw (b : Byte) : (s.setDt b).redraw = s.redraw := rfl
@[simp] theorem State.setDt_mem (b : Byte) : (s.setDt b).mem = s.mem := rfl
@[simp] theorem State.setDt_halted (b : Byte) : (s.setDt b).halted = s.halted := rfl
@[simp] theorem State.setDt_fault (b : Byte) : (s.setDt b).fault = s.fault := rfl
@[simp] theorem State.setDt_cfg (b : Byte) : (s.setDt b).cfg = s.cfg := rfl
@[simp] theorem State.setDt_random (b : Byte) : (s.setDt b).random = s.random := rfl
@[simp] theorem State.setDt_draws (b : Byte) : (s.setDt b).draws = s.draws := rfl
@[simp] theorem State.setDt_tone (b : Byte) : (s.setDt b).tone = s.tone := rfl
@[simp] theorem State.setDt_readMem (b : Byte) (a : Nat) : (s.setDt b).readMem a = s.readMem a := rfl
@[simp] theorem State.setDt_getV (b : Byte) (q : Reg) : (s.setDt b).getV q = s.getV q := rfl

@[simp] theorem State.setSt_v (b : Byte) : (s.setSt b).v = s.v := rfl
@[simp] theorem State.setSt_index (b : Byte) : (s.setSt b).index = s.index := rfl
@[simp] theorem State.setSt_pc (b : Byte) : (s.setSt b).pc = s.pc := rfl
@[simp] theorem State.setSt_stack (b : Byte) : (s.setSt b).stack = s.stack := rfl
@[simp] theorem State.setSt_sp (b : Byte) : (s.setSt b).sp = s.sp := rfl
@[simp] theorem State.setSt_dt (b : Byte) : (s.setSt b).dt = s.dt := rfl
@[simp] theorem State.setSt_st (b : Byte) : (s.setSt b).st = b := rfl
@[simp] theorem State.setSt_key (b : Byte) : (s.setSt b).key = s.key := rfl
@[simp] theorem State.setSt_fb (b : Byte) : (s.setSt b).fb = s.fb := rfl
@[simp] theorem State.setSt_redraw (b : Byte) : (s.setSt b).redraw = s.redraw := rfl
@[simp] theorem State.setSt_mem (b : Byte) : (s.setSt b).mem = s.mem := rfl
@[simp] theorem State.setSt_halted (b : Byte) : (s.setSt b).halted = s.halted := rfl
@[simp] theorem State.setSt_fault (b : Byte) : (s.setSt b).fault = s.fault := rfl
@[simp] theorem State.setSt_cfg (b : Byte) : (s.setSt b).cfg = s.cfg := rfl
@[simp] theorem State.setSt_random (b : Byte) : (s.setSt b).random = s.random := rfl
@[simp] theorem State.setSt_draws (b : Byte) : (s.setSt b).draws = s.draws := rfl
@[simp] theorem State.setSt_tone (b : Byte) : (s.setSt b).tone = s.tone := rfl
@[simp] theorem State.setSt_readMem (b : Byte) (a : Nat) : (s.setSt b).readMem a = s.readMem a := rfl
@[simp] theorem State.setSt_getV (b : Byte) (q : Reg) : (s.setSt b).getV q = s.getV q := rfl

@[simp] theorem State.setDisplay_v (f : Framebuffer) : (s.setDisplay f).v = s.v := rfl
@[simp] theorem State.setDisplay_index (f : Framebuffer) : (s.setDisplay f).index = s.index := rfl
@[simp] theorem State.setDisplay_pc (f : Framebuffer) : (s.setDisplay f).pc = s.pc := rfl
@[simp] theorem State.setDisplay_stack (f : Framebuffer) : (s.setDisplay f).stack = s.stack := rfl
@[simp] theorem State.setDisplay_sp (f : Framebuffer) : (s.setDisplay f).sp = s.sp := rfl
@[simp] theorem State.setDisplay_dt (f : Framebuffer) : (s.setDisplay f).dt = s.dt := rfl
@[simp] theorem State.setDisplay_st (f : Framebuffer) : (s.setDisplay f).st = s.st := rfl
@[simp] theorem State.setDisplay_key (f : Framebuffer) : (s.setDisplay f).key = s.key := rfl
@[simp] theorem State.setDisplay_fb (f : Framebuffer) : (s.setDisplay f).fb = f := rfl
@[simp] theorem State.setDisplay_redraw (f : Framebuffer) : (s.setDisplay f).redraw = true := rfl
@[simp] theorem State.setDisplay_mem (f : Framebuffer) : (s.setDisplay f).mem = s.mem := rfl
@[simp] theorem State.setDisplay_halted (f : Framebuffer) :
    (s.setDisplay f).halted = s.halted := rfl
@[simp] theorem State.setDisplay_fault (f : Framebuffer) : (s.setDisplay f).fault = s.fault := rfl
@[simp] theorem State.setDisplay_cfg (f : Framebuffer) : (s.setDisplay f).cfg = s.cfg := rfl
@[simp] theorem State.setDisplay_random (f : Framebuffer) :
    (s.setDisplay f).random = s.random := rfl
@[simp] theorem State.setDisplay_draws (f : Framebuffer) : (s.setDisplay f).draws = s.draws := rfl
@[simp] theorem State.setDisplay_tone (f : Framebuffer) : (s.setDisplay f).tone = s.tone := rfl
@[simp] theorem State.setDisplay_readMem (f : Framebuffer) (a : Nat) : (s.setDisplay f).readMem a = s.readMem a := rfl
@[simp] theorem State.setDisplay_getV (f : Framebuffer) (q : Reg) : (s.setDisplay f).getV q = s.getV q := rfl

@[simp] theorem State.writeMem_v (a : Nat) (b : Byte) : (s.writeMem a b).v = s.v := rfl
@[simp] theorem State.writeMem_index (a : Nat) (b : Byte) : (s.writeMem a b).index = s.index := rfl
@[simp] theorem State.writeMem_pc (a : Nat) (b : Byte) : (s.writeMem a b).pc = s.pc := rfl
@[simp] theorem State.writeMem_stack (a : Nat) (b : Byte) : (s.writeMem a b).stack = s.stack := rfl
@[simp] theorem State.writeMem_sp (a : Nat) (b : Byte) : (s.writeMem a b).sp = s.sp := rfl
@[simp] theorem State.writeMem_dt (a : Nat) (b : Byte) : (s.writeMem a b).dt = s.dt := rfl
@[simp] theorem State.writeMem_st (a : Nat) (b : Byte) : (s.writeMem a b).st = s.st := rfl
@[simp] theorem State.writeMem_key (a : Nat) (b : Byte) : (s.writeMem a b).key = s.key := rfl
@[simp] theorem State.writeMem_fb (a : Nat) (b : Byte) : (s.writeMem a b).fb = s.fb := rfl
@[simp] theorem State.writeMem_redraw (a : Nat) (b : Byte) :
    (s.writeMem a b).redraw = s.redraw := rfl
@[simp] theorem State.writeMem_mem (a : Nat) (b : Byte) :
    (s.writeMem a b).mem = Memory.write s.cfg.font s.mem a b := rfl
@[simp] theorem State.writeMem_halted (a : Nat) (b : Byte) :
    (s.writeMem a b).halted = s.halted := rfl
@[simp] theorem State.writeMem_fault (a : Nat) (b : Byte) : (s.writeMem a b).fault = s.fault := rfl
@[simp] theorem State.writeMem_cfg (a : Nat) (b : Byte) : (s.writeMem a b).cfg = s.cfg := rfl
@[simp] theorem State.writeMem_random (a : Nat) (b : Byte) :
    (s.writeMem a b).random = s.random := rfl
@[simp] theorem State.writeMem_draws (a : Nat) (b : Byte) : (s.writeMem a b).draws = s.draws := rfl
@[simp] theorem State.writeMem_tone (a : Nat) (b : Byte) : (s.writeMem a b).tone = s.tone := rfl
@[simp] theorem State.writeMem_getV (a : Nat) (b : Byte) (q : Reg) : (s.writeMem a b).getV q = s.getV q := rfl

@[simp] theorem State.push_v (w : Word) : (s.push w).v = s.v := rfl
@[simp] theorem State.push_index (w : Word) : (s.push w).index = s.index := rfl
@[simp] theorem State.push_pc (w : Word) : (s.push w).pc = s.pc := rfl
@[simp] theorem State.push_stack (w : Word) :
    (s.push w).stack = s.stack.setIfInBounds s.sp.val w := rfl
@[simp] theorem State.push_sp (w : Word) : (s.push w).sp = Fin.ofNat 17 (s.sp.val + 1) := rfl
@[simp] theorem State.push_dt (w : Word) : (s.push w).dt = s.dt := rfl
@[simp] theorem State.push_st (w : Word) : (s.push w).st = s.st := rfl
@[simp] theorem State.push_key (w : Word) : (s.push w).key = s.key := rfl
@[simp] theorem State.push_fb (w : Word) : (s.push w).fb = s.fb := rfl
@[simp] theorem State.push_redraw (w : Word) : (s.push w).redraw = s.redraw := rfl
@[simp] theorem State.push_mem (w : Word) : (s.push w).mem = s.mem := rfl
@[simp] theorem State.push_halted (w : Word) : (s.push w).halted = s.halted := rfl
@[simp] theorem State.push_fault (w : Word) : (s.push w).fault = s.fault := rfl
@[simp] theorem State.push_cfg (w : Word) : (s.push w).cfg = s.cfg := rfl
@[simp] theorem State.push_random (w : Word) : (s.push w).random = s.random := rfl
@[simp] theorem State.push_draws (w : Word) : (s.push w).draws = s.draws := rfl
@[simp] theorem State.push_tone (w : Word) : (s.push w).tone = s.tone := rfl
@[simp] theorem State.push_readMem (w : Word) (a : Nat) : (s.push w).readMem a = s.readMem a := rfl
@[simp] theorem State.push_getV (w : Word) (q : Reg) : (s.push w).getV q = s.getV q := rfl

@[simp] theorem State.popPc_v : (s.popPc).v = s.v := rfl
@[simp] theorem State.popPc_index : (s.popPc).index = s.index := rfl
@[simp] theorem State.popPc_pc : (s.popPc).pc = s.top := rfl
@[simp] theorem State.popPc_stack : (s.popPc).stack = s.stack := rfl
@[simp] theorem State.popPc_sp : (s.popPc).sp = Fin.ofNat 17 (s.sp.val - 1) := rfl
@[simp] theorem State.popPc_dt : (s.popPc).dt = s.dt := rfl
@[simp] theorem State.popPc_st : (s.popPc).st = s.st := rfl
@[simp] theorem State.popPc_key : (s.popPc).key = s.key := rfl
@[simp] theorem State.popPc_fb : (s.popPc).fb = s.fb := rfl
@[simp] theorem State.popPc_redraw : (s.popPc).redraw = s.redraw := rfl
@[simp] theorem State.popPc_mem : (s.popPc).mem = s.mem := rfl
@[simp] theorem State.popPc_halted : (s.popPc).halted = s.halted := rfl
@[simp] theorem State.popPc_fault : (s.popPc).fault = s.fault := rfl
@[simp] theorem State.popPc_cfg : (s.popPc).cfg = s.cfg := rfl
@[simp] theorem State.popPc_random : (s.popPc).random = s.random := rfl
@[simp] theorem State.popPc_draws : (s.popPc).draws = s.draws := rfl
@[simp] theorem State.popPc_tone : (s.popPc).tone = s.tone := rfl
@[simp] theorem State.popPc_readMem (a : Nat) : (s.popPc).readMem a = s.readMem a := rfl
@[simp] theorem State.popPc_getV (q : Reg) : (s.popPc).getV q = s.getV q := rfl

@[simp] theorem State.loadRegs_v (x : Reg) :
    (s.loadRegs x).v = Vector.ofFn (fun r : Reg => if r ≤ x then s.readMem (s.addrAt r.val) else s.getV r) := by simp only [State.loadRegs]
@[simp] theorem State.loadRegs_index (x : Reg) :
    (s.loadRegs x).index = s.index := by simp only [State.loadRegs]
@[simp] theorem State.loadRegs_pc (x : Reg) :
    (s.loadRegs x).pc = s.pc := by simp only [State.loadRegs]
@[simp] theorem State.loadRegs_stack (x : Reg) :
    (s.loadRegs x).stack = s.stack := by simp only [State.loadRegs]
@[simp] theorem State.loadRegs_sp (x : Reg) :
    (s.loadRegs x).sp = s.sp := by simp only [State.loadRegs]
@[simp] theorem State.loadRegs_dt (x : Reg) :
    (s.loadRegs x).dt = s.dt := by simp only [State.loadRegs]
@[simp] theorem State.loadRegs_st (x : Reg) :
    (s.loadRegs x).st = s.st := by simp only [State.loadRegs]
@[simp] theorem State.loadRegs_key (x : Reg) :
    (s.loadRegs x).key = s.key := by simp only [State.loadRegs]
@[simp] theorem State.loadRegs_fb (x : Reg) :
    (s.loadRegs x).fb = s.fb := by simp only [State.loadRegs]
@[simp] theorem State.loadRegs_redraw (x : Reg) :
    (s.loadRegs x).redraw = s.redraw := by simp only [State.loadRegs]
@[simp] theorem State.loadRegs_mem (x : Reg) :
    (s.loadRegs x).mem = s.mem := by simp only [State.loadRegs]
@[simp] theorem State.loadRegs_halted (x : Reg) :
    (s.loadRegs x).halted = s.halted := by simp only [State.loadRegs]
@[simp] theorem State.loadRegs_fault (x : Reg) :
    (s.loadRegs x).fault = s.fault := by simp only [State.loadRegs]
@[simp] theorem State.loadRegs_cfg (x : Reg) :
    (s.loadRegs x).cfg = s.cfg := by simp only [State.loadRegs]
@[simp] theorem State.loadRegs_random (x : Reg) :
    (s.loadRegs x).random = s.random := by simp only [State.loadRegs]
@[simp] theorem State.loadRegs_draws (x : Reg) :
    (s.loadRegs x).draws = s.draws := by simp only [State.loadRegs]
@[simp] theorem State.loadRegs_tone (x : Reg) :
    (s.loadRegs x).tone = s.tone := by simp only [State.loadRegs]
@[simp] theorem State.loadRegs_readMem (x : Reg) (a : Nat) : (s.loadRegs x).readMem a = s.readMem a := by
  simp only [State.readMem, State.loadRegs]

@[simp] theorem State.raise_v (c : Cause) (p : Word) (o : Option Word) (d : Detail) :
    (s.raise c p o d).v = s.v := rfl
@[simp] theorem State.raise_index (c : Cause) (p : Word) (o : Option Word) (d : Detail) :
    (s.raise c p o d).index = s.index := rfl
@[simp] theorem State.raise_pc (c : Cause) (p : Word) (o : Option Word) (d : Detail) :
    (s.raise c p o d).pc = s.pc := rfl
@[simp] theorem State.raise_stack (c : Cause) (p : Word) (o : Option Word) (d : Detail) :
    (s.raise c p o d).stack = s.stack := rfl
@[simp] theorem State.raise_sp (c : Cause) (p : Word) (o : Option Word) (d : Detail) :
    (s.raise c p o d).sp = s.sp := rfl
@[simp] theorem State.raise_dt (c : Cause) (p : Word) (o : Option Word) (d : Detail) :
    (s.raise c p o d).dt = s.dt := rfl
@[simp] theorem State.raise_st (c : Cause) (p : Word) (o : Option Word) (d : Detail) :
    (s.raise c p o d).st = s.st := rfl
@[simp] theorem State.raise_key (c : Cause) (p : Word) (o : Option Word) (d : Detail) :
    (s.raise c p o d).key = s.key := rfl
@[simp] theorem State.raise_fb (c : Cause) (p : Word) (o : Option Word) (d : Detail) :
    (s.raise c p o d).fb = s.fb := rfl
@[simp] theorem State.raise_redraw (c : Cause) (p : Word) (o : Option Word) (d : Detail) :
    (s.raise c p o d).redraw = s.redraw := rfl
@[simp] theorem State.raise_mem (c : Cause) (p : Word) (o : Option Word) (d : Detail) :
    (s.raise c p o d).mem = s.mem := rfl
@[simp] theorem State.raise_halted (c : Cause) (p : Word) (o : Option Word) (d : Detail) :
    (s.raise c p o d).halted = true := rfl
@[simp] theorem State.raise_fault (c : Cause) (p : Word) (o : Option Word) (d : Detail) :
    (s.raise c p o d).fault = if s.halted then s.fault else some ⟨c, p, o, d⟩ := rfl
@[simp] theorem State.raise_cfg (c : Cause) (p : Word) (o : Option Word) (d : Detail) :
    (s.raise c p o d).cfg = s.cfg := rfl
@[simp] theorem State.raise_random (c : Cause) (p : Word) (o : Option Word) (d : Detail) :
    (s.raise c p o d).random = s.random := rfl
@[simp] theorem State.raise_draws (c : Cause) (p : Word) (o : Option Word) (d : Detail) :
    (s.raise c p o d).draws = s.draws := rfl
@[simp] theorem State.raise_tone (c : Cause) (p : Word) (o : Option Word) (d : Detail) :
    (s.raise c p o d).tone = s.tone := rfl
@[simp] theorem State.raise_readMem (c : Cause) (p : Word) (o : Option Word) (d : Detail) (a : Nat) : (s.raise c p o d).readMem a = s.readMem a := rfl
@[simp] theorem State.raise_getV (c : Cause) (p : Word) (o : Option Word) (d : Detail) (q : Reg) : (s.raise c p o d).getV q = s.getV q := rfl

@[simp] theorem State.setTone_v (b : Bool) : (s.setTone b).v = s.v := rfl
@[simp] theorem State.setTone_index (b : Bool) : (s.setTone b).index = s.index := rfl
@[simp] theorem State.setTone_pc (b : Bool) : (s.setTone b).pc = s.pc := rfl
@[simp] theorem State.setTone_stack (b : Bool) : (s.setTone b).stack = s.stack := rfl
@[simp] theorem State.setTone_sp (b : Bool) : (s.setTone b).sp = s.sp := rfl
@[simp] theorem State.setTone_dt (b : Bool) : (s.setTone b).dt = s.dt := rfl
@[simp] theorem State.setTone_st (b : Bool) : (s.setTone b).st = s.st := rfl
@[simp] theorem State.setTone_key (b : Bool) : (s.setTone b).key = s.key := rfl
@[simp] theorem State.setTone_fb (b : Bool) : (s.setTone b).fb = s.fb := rfl
@[simp] theorem State.setTone_redraw (b : Bool) : (s.setTone b).redraw = s.redraw := rfl
@[simp] theorem State.setTone_mem (b : Bool) : (s.setTone b).mem = s.mem := rfl
@[simp] theorem State.setTone_halted (b : Bool) : (s.setTone b).halted = s.halted := rfl
@[simp] theorem State.setTone_fault (b : Bool) : (s.setTone b).fault = s.fault := rfl
@[simp] theorem State.setTone_cfg (b : Bool) : (s.setTone b).cfg = s.cfg := rfl
@[simp] theorem State.setTone_random (b : Bool) : (s.setTone b).random = s.random := rfl
@[simp] theorem State.setTone_draws (b : Bool) : (s.setTone b).draws = s.draws := rfl
@[simp] theorem State.setTone_tone (b : Bool) : (s.setTone b).tone = b := rfl
@[simp] theorem State.setTone_readMem (b : Bool) (a : Nat) : (s.setTone b).readMem a = s.readMem a := rfl
@[simp] theorem State.setTone_getV (b : Bool) (q : Reg) : (s.setTone b).getV q = s.getV q := rfl

@[simp] theorem State.tick_v : (s.tick).v = s.v := rfl
@[simp] theorem State.tick_index : (s.tick).index = s.index := rfl
@[simp] theorem State.tick_pc : (s.tick).pc = s.pc := rfl
@[simp] theorem State.tick_stack : (s.tick).stack = s.stack := rfl
@[simp] theorem State.tick_sp : (s.tick).sp = s.sp := rfl
@[simp] theorem State.tick_dt : (s.tick).dt = countDown s.dt := rfl
@[simp] theorem State.tick_st : (s.tick).st = countDown s.st := rfl
@[simp] theorem State.tick_key : (s.tick).key = s.key := rfl
@[simp] theorem State.tick_fb : (s.tick).fb = s.fb := rfl
@[simp] theorem State.tick_redraw : (s.tick).redraw = s.redraw := rfl
@[simp] theorem State.tick_mem : (s.tick).mem = s.mem := rfl
@[simp] theorem State.tick_halted : (s.tick).halted = s.halted := rfl
@[simp] theorem State.tick_fault : (s.tick).fault = s.fault := rfl
@[simp] theorem State.tick_cfg : (s.tick).cfg = s.cfg := rfl
@[simp] theorem State.tick_random : (s.tick).random = s.random := rfl
@[simp] theorem State.tick_draws : (s.tick).draws = s.draws := rfl
@[simp] theorem State.tick_tone : (s.tick).tone = decide (0 < s.st) := rfl
@[simp] theorem State.tick_readMem (a : Nat) : (s.tick).readMem a = s.readMem a := rfl
@[simp] theorem State.tick_getV (q : Reg) : (s.tick).getV q = s.getV q := rfl

@[simp] theorem State.dropRandom_v : s.dropRandom.v = s.v := by
  unfold State.dropRandom; split <;> rfl
@[simp] theorem State.dropRandom_index : s.dropRandom.index = s.index := by
  unfold State.dropRandom; split <;> rfl
@[simp] theorem State.dropRandom_pc : s.dropRandom.pc = s.pc := by
  unfold State.dropRandom; split <;> rfl
@[simp] theorem State.dropRandom_stack : s.dropRandom.stack = s.stack := by
  unfold State.dropRandom; split <;> rfl
@[simp] theorem State.dropRandom_sp : s.dropRandom.sp = s.sp := by
  unfold State.dropRandom; split <;> rfl
@[simp] theorem State.dropRandom_dt : s.dropRandom.dt = s.dt := by
  unfold State.dropRandom; split <;> rfl
@[simp] theorem State.dropRandom_st : s.dropRandom.st = s.st := by
  unfold State.dropRandom; split <;> rfl
@[simp] theorem State.dropRandom_key : s.dropRandom.key = s.key := by
  unfold State.dropRandom; split <;> rfl
@[simp] theorem State.dropRandom_fb : s.dropRandom.fb = s.fb := by
  unfold State.dropRandom; split <;> rfl
@[simp] theorem State.dropRandom_redraw : s.dropRandom.redraw = s.redraw := by
  unfold State.dropRandom; split <;> rfl
@[simp] theorem State.dropRandom_mem : s.dropRandom.mem = s.mem := by
  unfold State.dropRandom; split <;> rfl
@[simp] theorem State.dropRandom_halted : s.dropRandom.halted = s.halted := by
  unfold State.dropRandom; split <;> rfl
@[simp] theorem State.dropRandom_fault : s.dropRandom.fault = s.fault := by
  unfold State.dropRandom; split <;> rfl
@[simp] theorem State.dropRandom_cfg : s.dropRandom.cfg = s.cfg := by
  unfold State.dropRandom; split <;> rfl
@[simp] theorem State.dropRandom_tone : s.dropRandom.tone = s.tone := by
  unfold State.dropRandom; split <;> rfl
@[simp] theorem State.dropRandom_random : s.dropRandom.random = s.random.tail := by
  unfold State.dropRandom; split <;> simp_all
@[simp] theorem State.dropRandom_draws :
    s.dropRandom.draws = if s.random.isEmpty then s.draws + 1 else s.draws := by
  unfold State.dropRandom; split <;> simp_all
@[simp] theorem State.dropRandom_readMem (a : Nat) : s.dropRandom.readMem a = s.readMem a := by
  unfold State.readMem; simp
@[simp] theorem State.dropRandom_getV (q : Reg) : s.dropRandom.getV q = s.getV q := by
  unfold State.getV; simp

@[simp] theorem State.writeBytes_v (bs : List Byte) : ∀ (s : State) (a : Nat), (s.writeBytes a bs).v = s.v := by
  induction bs with
  | nil => exact fun _ _ => rfl
  | cons b bs ih => exact fun s a => ih (s.writeMem a b) (a + 1)
@[simp] theorem State.writeBytes_index (bs : List Byte) : ∀ (s : State) (a : Nat), (s.writeBytes a bs).index = s.index := by
  induction bs with
  | nil => exact fun _ _ => rfl
  | cons b bs ih => exact fun s a => ih (s.writeMem a b) (a + 1)
@[simp] theorem State.writeBytes_pc (bs : List Byte) : ∀ (s : State) (a : Nat), (s.writeBytes a bs).pc = s.pc := by
  induction bs with
  | nil => exact fun _ _ => rfl
  | cons b bs ih => exact fun s a => ih (s.writeMem a b) (a + 1)
@[simp] theorem State.writeBytes_stack (bs : List Byte) : ∀ (s : State) (a : Nat), (s.writeBytes a bs).stack = s.stack := by
  induction bs with
  | nil => exact fun _ _ => rfl
  | cons b bs ih => exact fun s a => ih (s.writeMem a b) (a + 1)
@[simp] theorem State.writeBytes_sp (bs : List Byte) : ∀ (s : State) (a : Nat), (s.writeBytes a bs).sp = s.sp := by
  induction bs with
  | nil => exact fun _ _ => rfl
  | cons b bs ih => exact fun s a => ih (s.writeMem a b) (a + 1)
@[simp] theorem State.writeBytes_dt (bs : List Byte) : ∀ (s : State) (a : Nat), (s.writeBytes a bs).dt = s.dt := by
  induction bs with
  | nil => exact fun _ _ => rfl
  | cons b bs ih => exact fun s a => ih (s.writeMem a b) (a + 1)
@[simp] theorem State.writeBytes_st (bs : List Byte) : ∀ (s : State) (a : Nat), (s.writeBytes a bs).st = s.st := by
  induction bs with
  | nil => exact fun _ _ => rfl
  | cons b bs ih => exact fun s a => ih (s.writeMem a b) (a + 1)
@[simp] theorem State.writeBytes_key (bs : List Byte) : ∀ (s : State) (a : Nat), (s.writeBytes a bs).key = s.key := by
  induction bs with
  | nil => exact fun _ _ => rfl
  | cons b bs ih => exact fun s a => ih (s.writeMem a b) (a + 1)
@[simp] theorem State.writeBytes_fb (bs : List Byte) : ∀ (s : State) (a : Nat), (s.writeBytes a bs).fb = s.fb := by
  induction bs with
  | nil => exact fun _ _ => rfl
  | cons b bs ih => exact fun s a => ih (s.writeMem a b) (a + 1)
@[simp] theorem State.writeBytes_redraw (bs : List Byte) : ∀ (s : State) (a : Nat), (s.writeBytes a bs).redraw = s.redraw := by
  induction bs with
  | nil => exact fun _ _ => rfl
  | cons b bs ih => exact fun s a => ih (s.writeMem a b) (a + 1)
@[simp] theorem State.writeBytes_halted (bs : List Byte) : ∀ (s : State) (a : Nat), (s.writeBytes a bs).halted = s.halted := by
  induction bs with
  | nil => exact fun _ _ => rfl
  | cons b bs ih => exact fun s a => ih (s.writeMem a b) (a + 1)
@[simp] theorem State.writeBytes_fault (bs : List Byte) : ∀ (s : State) (a : Nat), (s.writeBytes a bs).fault = s.fault := by
  induction bs with
  | nil => exact fun _ _ => rfl
  | cons b bs ih => exact fun s a => ih (s.writeMem a b) (a + 1)
@[simp] theorem State.writeBytes_cfg (bs : List Byte) : ∀ (s : State) (a : Nat), (s.writeBytes a bs).cfg = s.cfg := by
  induction bs with
  | nil => exact fun _ _ => rfl
  | cons b bs ih => exact fun s a => ih (s.writeMem a b) (a + 1)
@[simp] theorem State.writeBytes_random (bs : List Byte) : ∀ (s : State) (a : Nat), (s.writeBytes a bs).random = s.random := by
  induction bs with
  | nil => exact fun _ _ => rfl
  | cons b bs ih => exact fun s a => ih (s.writeMem a b) (a + 1)
@[simp] theorem State.writeBytes_draws (bs : List Byte) : ∀ (s : State) (a : Nat), (s.writeBytes a bs).draws = s.draws := by
  induction bs with
  | nil => exact fun _ _ => rfl
  | cons b bs ih => exact fun s a => ih (s.writeMem a b) (a + 1)
@[simp] theorem State.writeBytes_tone (bs : List Byte) : ∀ (s : State) (a : Nat), (s.writeBytes a bs).tone = s.tone := by
  induction bs with
  | nil => exact fun _ _ => rfl
  | cons b bs ih => exact fun s a => ih (s.writeMem a b) (a + 1)
@[simp] theorem State.writeBytes_getV (bs : List Byte) (a : Nat) (q : Reg) :
    (s.writeBytes a bs).getV q = s.getV q := by
  unfold State.getV; simp

/-- A register read after a register write. -/
@[simp] theorem State.getV_setV (r q : Reg) (b : Byte) :
    (s.setV r b).getV q = if q = r then b else s.getV q := by
  unfold State.getV State.setV
  by_cases h : q = r
  · subst h; simp
  · have : r.val ≠ q.val := fun e => h (Fin.ext e.symm)
    simp [h, Vector.getElem_set_ne _ _ this]

/-- The registers after `Fx65`: `V0` to `Vx` from memory, the others as before. -/
@[simp] theorem State.getV_loadRegs (x q : Reg) :
    (s.loadRegs x).getV q = if q ≤ x then s.readMem (s.addrAt q.val) else s.getV q := by
  simp [State.getV, State.loadRegs]

/-! The derived operations in terms of the plain ones -/

@[simp] theorem State.advancePc_eq : s.advancePc = s.setPc (s.pc + 2) := rfl
@[simp] theorem State.skipNext_eq : s.skipNext = s.setPc (s.pc + 2) := rfl
@[simp] theorem State.waitHere_eq : s.waitHere = s.setPc (s.pc - 2) := rfl
@[simp] theorem State.setFlag_eq (b : Bool) : s.setFlag b = s.setV flagReg (flagByte b) := rfl
@[simp] theorem State.setVThenFlag_eq (x : Reg) (r : Byte) (b : Bool) :
    s.setVThenFlag x r b = (s.setV x r).setV flagReg (flagByte b) := rfl
@[simp] theorem State.drawPixels_eq (ps : List (Nat × Nat)) :
    s.drawPixels ps = (s.setDisplay (togglePixels s.fb ps).1).setV flagReg
      (flagByte (togglePixels s.fb ps).2) := rfl
@[simp] theorem State.raiseIn_eq (i : Instr) (c : Cause) (d : Detail) :
    s.raiseIn i c d = (s.setPc (s.pc - 2)).raise c (s.pc - 2) (some (encode i)) d := rfl
@[simp] theorem State.raiseMem_eq (i : Instr) :
    s.raiseMem i = s.raiseIn i .outOfBounds (.mem (beyondAddress s.index)) := rfl
@[simp] theorem State.raiseKey_eq (i : Instr) (k : Byte) :
    s.raiseKey i k = s.raiseIn i .outOfBounds (.key k) := rfl
@[simp] theorem State.raiseFb_eq (i : Instr) (p : Nat × Nat) :
    s.raiseFb i p = s.raiseIn i .outOfBounds (.fb (BitVec.ofNat 9 p.1) (BitVec.ofNat 9 p.2)) := rfl
@[simp] theorem State.raiseFetch_eq :
    s.raiseFetch = s.raise .outOfBounds s.pc none (.fetch (beyondAddress s.pc)) := rfl
@[simp] theorem State.raiseIllegal_eq (w : Word) :
    s.raiseIllegal w = s.raise .unrecognizedOpcode s.pc (some w) .none := rfl

/-- What a fault in the dispatch of `i` leaves. -/
theorem State.faultedAt_raiseIn (i : Instr) (c : Cause) (d : Detail) :
    FaultedAt i c d s (s.raiseIn i c d) := by
  refine ⟨rfl, rfl, rfl, fun p hp => ?_⟩
  cases p <;> first | rfl | exact absurd (by simp) hp

/-- The end of a cycle that faulted. -/
theorem State.endCycle_of_halted (h : s.halted = true) : s.endCycle = s.setTone false := by
  simp [State.endCycle, h]

/-- The end of a completed cycle. -/
theorem State.endCycle_of_running (h : s.halted = false) : s.endCycle = s.tick := by
  simp [State.endCycle, h]

end Sys2Proof.Machine
end

