-- ==== Sys2Proof/Laws/Display.lean ====
section
/-!
SUPPORT. What toggling one pixel and a list of pixels does to every pixel, and which pixels a sprite has.
-/

namespace Sys2Proof.Machine

@[simp] theorem Framebuffer.pixel_blank (row col : Nat) : Framebuffer.blank.pixel row col = false := by
  unfold Framebuffer.pixel Framebuffer.blank
  by_cases h : row < 32 <;> by_cases k : col < 64 <;> simp [h, k]

/-- A pixel of the grid, as the two-level array holds it. -/
theorem Framebuffer.pixel_eq (f : Framebuffer) (row : Fin 32) (col : Fin 64) :
    f.pixel row col = f[row][col] := by
  simp [Framebuffer.pixel]

/-- Framebuffers with the same pixels are equal. -/
theorem Framebuffer.ext_pixel (f g : Framebuffer)
    (h : ∀ (row : Fin 32) (col : Fin 64), f.pixel row col = g.pixel row col) : f = g := by
  apply Vector.ext
  intro r hr
  apply Vector.ext
  intro c hc
  have := h ⟨r, hr⟩ ⟨c, hc⟩
  rw [Framebuffer.pixel_eq, Framebuffer.pixel_eq] at this
  exact this

/-- Toggling a pixel of the grid inverts it and no other. -/
theorem Framebuffer.pixel_toggle (f : Framebuffer) (row col r c : Nat) (hr : row < 32) (hc : col < 64) :
    (f.toggle row col).pixel r c = if r = row ∧ c = col then !f.pixel row col else f.pixel r c := by
  unfold Framebuffer.toggle
  rw [Vector.getElem?_eq_getElem hr]
  unfold Framebuffer.pixel
  by_cases h1 : r = row
  · subst h1
    by_cases h2 : c = col
    · subst h2
      simp [hr, hc]
    · simp [hr, h2, Vector.getElem?_setIfInBounds_ne (Ne.symm h2)]
  · simp [h1, Vector.getElem?_setIfInBounds_ne (Ne.symm h1)]

/-- Toggling distinct pixels of the grid: each listed pixel is inverted and no other, and there is a
collision iff a listed pixel was lit. -/
theorem togglePixels_spec (ps : List (Nat × Nat)) : ∀ (f : Framebuffer), ps.Nodup →
    (∀ p ∈ ps, p.1 < 64 ∧ p.2 < 32) →
    (∀ row col, (togglePixels f ps).1.pixel row col =
      (f.pixel row col ^^ decide ((col, row) ∈ ps))) ∧
    (togglePixels f ps).2 = ps.any (fun p => f.pixel p.2 p.1) := by
  induction ps with
  | nil => intro f _ _; simp [togglePixels]
  | cons p ps ih =>
    intro f hn hg
    obtain ⟨hp, hn⟩ := List.nodup_cons.1 hn
    obtain ⟨h1, h2⟩ := hg p List.mem_cons_self
    obtain ⟨ih1, ih2⟩ := ih (f.toggle p.2 p.1) hn (fun q hq => hg q (List.mem_cons_of_mem _ hq))
    constructor
    · intro row col
      simp only [togglePixels]
      rw [ih1, Framebuffer.pixel_toggle _ _ _ _ _ h2 h1]
      by_cases h : row = p.2 ∧ col = p.1
      · obtain ⟨rfl, rfl⟩ := h
        simp [hp]
      · have : (col, row) ≠ p := by rintro rfl; exact h ⟨rfl, rfl⟩
        simp [h, this]
    · simp only [togglePixels, List.any_cons, ih2]
      congr 1
      rw [Bool.eq_iff_iff, List.any_eq_true, List.any_eq_true]
      refine exists_congr fun q => and_congr_right fun hq => ?_
      rw [Framebuffer.pixel_toggle _ _ _ _ _ h2 h1]
      have : ¬ (q.2 = p.2 ∧ q.1 = p.1) := by
        rintro ⟨e2, e1⟩
        exact hp ((Prod.ext e1 e2 : q = p) ▸ hq)
      simp [this]

theorem mem_setColumns (b : Byte) (c : Nat) :
    c ∈ setColumns b ↔ c < 8 ∧ b.getLsbD (7 - c) = true := by
  simp [setColumns]

/-- The pixels of a sprite. -/
theorem mem_spritePixels (px : Nat) (bs : List Byte) : ∀ (py : Nat) (p : Nat × Nat),
    p ∈ spritePixels px py bs ↔ ∃ (k : Nat) (h : k < bs.length) (c : Nat),
      c < 8 ∧ bs[k].getLsbD (7 - c) = true ∧ p = (px + c, py + k) := by
  induction bs with
  | nil => intro py p; simp [spritePixels]
  | cons b bs ih =>
    intro py p
    rw [spritePixels, List.mem_append, ih, List.mem_map]
    constructor
    · rintro (⟨c, hc, rfl⟩ | ⟨k, hk, c, hc, hb, rfl⟩)
      · exact ⟨0, by simp, c, ((mem_setColumns b c).1 hc).1, ((mem_setColumns b c).1 hc).2, rfl⟩
      · exact ⟨k + 1, by simpa using hk, c, hc, by simpa using hb, by simp; omega⟩
    · rintro ⟨k, hk, c, hc, hb, rfl⟩
      cases k with
      | zero => exact .inl ⟨c, (mem_setColumns b c).2 ⟨hc, by simpa using hb⟩, rfl⟩
      | succ k =>
        exact .inr ⟨k, by simpa using hk, c, hc, by simpa using hb, by simp; omega⟩

/-- A sprite names no pixel twice (44_display.md R173(a)). -/
theorem nodup_spritePixels (px : Nat) (bs : List Byte) : ∀ py : Nat, (spritePixels px py bs).Nodup := by
  induction bs with
  | nil => intro py; simp [spritePixels]
  | cons b bs ih =>
    intro py
    rw [spritePixels, List.nodup_append]
    refine ⟨?_, ih _, ?_⟩
    · refine (List.Nodup.filter _ List.nodup_range).map ?_
      intro a c h
      simp only [Prod.mk.injEq] at h
      omega
    · intro a ha c hc e
      obtain ⟨x, -, rfl⟩ := List.mem_map.1 ha
      obtain ⟨k, _, d, _, _, rfl⟩ := (mem_spritePixels _ _ _ _).1 hc
      simp only [Prod.mk.injEq] at e
      omega

end Sys2Proof.Machine
end

