-- ==== Sys2Proof/Laws/Memory.lean ====
section
/-!
SUPPORT. The laws of memory: a read after a write, and every write keeps the canonical form.
-/

namespace Sys2Proof.Machine

theorem Memory.lookup_cons (c : Host.Cell) (m : List Host.Cell) (q : Nat) :
    List.lookup q (c :: m) = if q = c.1 then some c.2 else m.lookup q := by
  by_cases h : q = c.1
  · simp [List.lookup, h]
  · simp [List.lookup, h, beq_false_of_ne h]

theorem Memory.lookup_insert (a : Nat) (b : Byte) (m : List Host.Cell) (q : Nat) :
    (Memory.insert a b m).lookup q = if q = a then some b else m.lookup q := by
  induction m with
  | nil => simp [Memory.insert, Memory.lookup_cons]
  | cons c cs ih =>
    unfold Memory.insert
    by_cases h1 : c.1 < a
    · by_cases h : q = c.1
      · simp [h1, Memory.lookup_cons, h, show c.1 ≠ a by omega]
      · simp [h1, Memory.lookup_cons, h, ih]
    · by_cases h2 : c.1 = a
      · by_cases h : q = a <;> simp [h2, Memory.lookup_cons, h]
      · by_cases h : q = a <;> simp [h1, h2, Memory.lookup_cons, h]

theorem Memory.lookup_erase (a : Nat) (m : List Host.Cell) (q : Nat) :
    (Memory.erase a m).lookup q = if q = a then none else m.lookup q := by
  unfold Memory.erase
  induction m with
  | nil => simp
  | cons c cs ih =>
    by_cases h1 : c.1 = a
    · rw [List.filter_cons_of_neg (by simp [h1]), ih, Memory.lookup_cons, h1]
      by_cases h : q = a <;> simp [h]
    · rw [List.filter_cons_of_pos (by simp [h1]), Memory.lookup_cons, ih, Memory.lookup_cons]
      by_cases h : q = c.1
      · simp [h, h1]
      · simp [h]

/-- A read of the address written gives the byte written; a write leaves every other address alone. -/
@[simp] theorem Memory.read_write (font : Font) (m : List Host.Cell) (a q : Nat) (b : Byte) :
    Memory.read font (Memory.write font m a b) q = if q = a then b else Memory.read font m q := by
  unfold Memory.read Memory.write
  by_cases hb : b = Memory.unlisted font a <;> by_cases h : q = a
  · simp [hb, Memory.lookup_erase, h]
  · simp [hb, Memory.lookup_erase, h]
  · simp [hb, Memory.lookup_insert, h]
  · simp [hb, Memory.lookup_insert, h]

/-- The same, for the state's read of one byte. -/
@[simp] theorem State.readMem_writeMem (s : State) (a q : Nat) (b : Byte) :
    (s.writeMem a b).readMem q = if q = a then b else s.readMem q := by
  simp [State.readMem]

/-- Everything ascending writes do to memory: the address `a + k` reads as the `k`-th byte, every other
address as before. -/
theorem State.readMem_writeBytes (bs : List Byte) : ∀ (s : State) (a q : Nat),
    (s.writeBytes a bs).readMem q =
      if h : a ≤ q ∧ q - a < bs.length then bs[q - a]'h.2 else s.readMem q := by
  induction bs with
  | nil => intro s a q; simp [State.writeBytes]
  | cons b bs ih =>
    intro s a q
    rw [State.writeBytes, ih]
    by_cases h1 : a + 1 ≤ q ∧ q - (a + 1) < bs.length
    · have h2 : a ≤ q ∧ q - a < (b :: bs).length := by simp only [List.length_cons]; omega
      rw [dif_pos h1, dif_pos h2]
      obtain ⟨k, hk⟩ : ∃ k, q = a + 1 + k := ⟨q - (a + 1), by omega⟩
      subst hk
      simp [show a + 1 + k - a = k + 1 by omega]
    · rw [dif_neg h1]
      by_cases h3 : q = a
      · subst h3; simp
      · have h2 : ¬ (a ≤ q ∧ q - a < (b :: bs).length) := by
          simp only [List.length_cons]; omega
        rw [dif_neg h2]; simp [h3]

theorem Memory.insert_mem (a : Nat) (b : Byte) (m : List Host.Cell) (c : Host.Cell)
    (h : c ∈ Memory.insert a b m) : c = (a, b) ∨ c ∈ m := by
  induction m with
  | nil => exact .inl (by simpa [Memory.insert] using h)
  | cons d ds ih =>
    unfold Memory.insert at h
    split at h
    · rcases List.mem_cons.1 h with h | h
      · exact .inr (h ▸ List.mem_cons_self)
      · exact (ih h).imp_right (List.mem_cons_of_mem _)
    · split at h
      · exact (List.mem_cons.1 h).imp_right (List.mem_cons_of_mem _)
      · exact List.mem_cons.1 h

theorem Memory.insert_sorted (a : Nat) (b : Byte) (m : List Host.Cell)
    (h : m.Pairwise (fun c d => c.1 < d.1)) :
    (Memory.insert a b m).Pairwise (fun c d => c.1 < d.1) := by
  induction m with
  | nil => simp [Memory.insert]
  | cons c cs ih =>
    obtain ⟨hc, hcs⟩ := List.pairwise_cons.1 h
    unfold Memory.insert
    split
    · refine List.pairwise_cons.2 ⟨fun d hd => ?_, ih hcs⟩
      rcases Memory.insert_mem a b cs d hd with h | h
      · subst h; assumption
      · exact hc d h
    · split
      · refine List.pairwise_cons.2 ⟨fun d hd => ?_, hcs⟩
        have := hc d hd
        simp only; omega
      · refine List.pairwise_cons.2 ⟨fun d hd => ?_, h⟩
        rcases List.mem_cons.1 hd with h | h
        · subst h; simp only; omega
        · have := hc d h
          simp only; omega

/-- A write below 4096 keeps the canonical form. -/
theorem Memory.wf_write (font : Font) (m : List Host.Cell) (a : Nat) (b : Byte)
    (h : Memory.wf font m) (ha : a < memSize) : Memory.wf font (Memory.write font m a b) := by
  unfold Memory.write
  split
  · exact ⟨h.1.filter _, fun c hc => h.2 c (List.mem_filter.1 hc).1⟩
  · refine ⟨Memory.insert_sorted a b m h.1, fun c hc => ?_⟩
    rcases Memory.insert_mem a b m c hc with rfl | hc
    · exact ⟨ha, by assumption⟩
    · exact h.2 c hc

/-- Ascending writes below 4096 keep the canonical form. -/
theorem State.wf_writeBytes (bs : List Byte) : ∀ (s : State) (a : Nat),
    Memory.wf s.cfg.font s.mem → a + bs.length ≤ memSize →
    Memory.wf s.cfg.font (s.writeBytes a bs).mem := by
  induction bs with
  | nil => exact fun _ _ h _ => h
  | cons b bs ih =>
    intro s a h ha
    simp only [List.length_cons] at ha
    exact ih (s.writeMem a b) (a + 1) (Memory.wf_write _ _ _ _ h (by omega)) (by omega)

/-- The memory that lists nothing is in canonical form. -/
theorem Memory.wf_nil (font : Font) : Memory.wf font [] :=
  ⟨List.Pairwise.nil, fun _ h => absurd h List.not_mem_nil⟩

end Sys2Proof.Machine
end

