-- ==== Sys2Proof/Laws/Exec.lean ====
section
/-!
SUPPORT. What the step can do, said once, and each instruction's dispatch in terms of the plain
operations.
-/

namespace Sys2Proof.Machine

/-- Everything a step can do. -/
theorem step_cases (s t : State) (h : step s = .next t) :
    (s.halted = true ∧ t = s.setTone false) ∨
    (s.halted = false ∧ 4094 < s.pc.toNat ∧ t = (s.raiseFetch).setTone false) ∨
    (s.halted = false ∧ s.pc.toNat ≤ 4094 ∧ decodeWord s.fetchWord = none ∧
      t = (s.raiseIllegal s.fetchWord).setTone false) ∨
    (s.halted = false ∧ s.pc.toNat ≤ 4094 ∧ ∃ i u, decodeWord s.fetchWord = some i ∧
      exec i s.advancePc = .next u ∧ t = u.endCycle) := by
  unfold step cycle at h
  split at h
  · exact .inl ⟨‹_›, (Host.Outcome.next.inj h).symm⟩
  · have hh : s.halted = false := by simpa using ‹¬ s.halted = true›
    split at h
    · have hp : s.pc.toNat ≤ 4094 := by simpa [State.fetchable] using ‹s.fetchable = true›
      split at h
      · rename_i i hi
        cases hx : exec i s.advancePc with
        | next u =>
          rw [hx] at h
          exact .inr (.inr (.inr ⟨hh, hp, i, u, hi, hx, (Host.Outcome.next.inj h).symm⟩))
        | fault r => exact nomatch r
        | refused r => rw [hx] at h; exact nomatch h
      · exact .inr (.inr (.inl ⟨hh, hp, ‹_›, (Host.Outcome.next.inj h).symm⟩))
    · have hp : 4094 < s.pc.toNat := by simpa [State.fetchable] using ‹¬ s.fetchable = true›
      exact .inr (.inl ⟨hh, hp, (Host.Outcome.next.inj h).symm⟩)

/-- The step of a core that is not halted, at a legal pc, on a legal word. -/
theorem step_of_decode (s u : State) (i : Instr) (hh : s.halted = false) (hp : s.pc.toNat ≤ 4094)
    (hi : decodeWord s.fetchWord = some i) (hx : exec i s.advancePc = .next u) :
    step s = .next u.endCycle := by
  have hf : s.fetchable = true := by simpa [State.fetchable] using hp
  simp only [step, cycle, hh, hf, hi, hx, finish, if_true, Bool.false_eq_true, if_false]

/-! Each instruction -/

theorem exec_cls (s : State) : exec .cls s = .next (
      s.setDisplay Framebuffer.blank) := rfl

theorem exec_ret (s : State) : exec .ret s = .next (
      if s.sp.val = 0 then s.raiseIn .ret .stackUnderflow .none else s.popPc) := rfl

theorem exec_jp (nnn : Addr) (s : State) : exec (.jp nnn) s = .next (
      s.setPc (wordOfAddr nnn)) := rfl

theorem exec_call (nnn : Addr) (s : State) : exec (.call nnn) s = .next (
      if s.sp.val = 16 then s.raiseIn (.call nnn) .stackOverflow .none
      else (s.push s.pc).setPc (wordOfAddr nnn)) := rfl

theorem exec_seImm (x : Reg) (kk : Byte) (s : State) : exec (.seImm x kk) s = .next (
      if s.getV x == kk then s.skipNext else s) := rfl

theorem exec_sneImm (x : Reg) (kk : Byte) (s : State) : exec (.sneImm x kk) s = .next (
      if s.getV x != kk then s.skipNext else s) := rfl

theorem exec_seReg (x y : Reg) (s : State) : exec (.seReg x y) s = .next (
      if s.getV x == s.getV y then s.skipNext else s) := rfl

theorem exec_sneReg (x y : Reg) (s : State) : exec (.sneReg x y) s = .next (
      if s.getV x != s.getV y then s.skipNext else s) := rfl

theorem exec_ldImm (x : Reg) (kk : Byte) (s : State) : exec (.ldImm x kk) s = .next (
      s.setV x kk) := rfl

theorem exec_addImm (x : Reg) (kk : Byte) (s : State) : exec (.addImm x kk) s = .next (
      s.setV x (s.getV x + kk)) := rfl

theorem exec_ldReg (x y : Reg) (s : State) : exec (.ldReg x y) s = .next (
      s.setV x (s.getV y)) := rfl

theorem exec_orReg (x y : Reg) (s : State) : exec (.orReg x y) s = .next (
      s.setV x (s.getV x ||| s.getV y)) := rfl

theorem exec_andReg (x y : Reg) (s : State) : exec (.andReg x y) s = .next (
      s.setV x (s.getV x &&& s.getV y)) := rfl

theorem exec_xorReg (x y : Reg) (s : State) : exec (.xorReg x y) s = .next (
      s.setV x (s.getV x ^^^ s.getV y)) := rfl

theorem exec_addReg (x y : Reg) (s : State) : exec (.addReg x y) s = .next (
      s.setVThenFlag x (s.getV x + s.getV y) (carryOut (s.getV x) (s.getV y))) := rfl

theorem exec_sub (x y : Reg) (s : State) : exec (.sub x y) s = .next (
      s.setVThenFlag x (s.getV x - s.getV y) (noBorrow (s.getV x) (s.getV y))) := rfl

theorem exec_shr (x y : Reg) (s : State) : exec (.shr x y) s = .next (
      s.setVThenFlag x (s.getV x >>> 1) (shiftedOutRight (s.getV x))) := rfl

theorem exec_subn (x y : Reg) (s : State) : exec (.subn x y) s = .next (
      s.setVThenFlag x (s.getV y - s.getV x) (noBorrow (s.getV y) (s.getV x))) := rfl

theorem exec_shl (x y : Reg) (s : State) : exec (.shl x y) s = .next (
      s.setVThenFlag x (s.getV x <<< 1) (shiftedOutLeft (s.getV x))) := rfl

theorem exec_ldI (nnn : Addr) (s : State) : exec (.ldI nnn) s = .next (
      s.setIndex (wordOfAddr nnn)) := rfl

theorem exec_jpV0 (nnn : Addr) (s : State) : exec (.jpV0 nnn) s = .next (
      s.setPc (wordOfByte (s.getV 0) + wordOfAddr nnn)) := rfl

theorem exec_rnd (x : Reg) (kk : Byte) (s : State) : exec (.rnd x kk) s = .next (
      s.dropRandom.setV x (s.randomByte &&& kk)) := rfl

theorem exec_drw (x y : Reg) (n : Nat) (s : State) : exec (.drw x y n) s = .next (
      if s.beyondMemory n then s.raiseMem (.drw x y n)
      else s.drawAtEdge (.drw x y n)
        (spritePixels (s.getV x).toNat (s.getV y).toNat (s.readBytes n))) := rfl

theorem exec_skp (x : Reg) (s : State) : exec (.skp x) s = .next (
      if noSuchKey (s.getV x) then s.raiseKey (.skp x) (s.getV x)
      else if s.keyDown (s.getV x).toNat then s.skipNext else s) := rfl

theorem exec_sknp (x : Reg) (s : State) : exec (.sknp x) s = .next (
      if noSuchKey (s.getV x) then s.raiseKey (.sknp x) (s.getV x)
      else if s.keyDown (s.getV x).toNat then s else s.skipNext) := rfl

theorem exec_ldVxDt (x : Reg) (s : State) : exec (.ldVxDt x) s = .next (
      s.setV x s.dt) := rfl

theorem exec_ldDtVx (x : Reg) (s : State) : exec (.ldDtVx x) s = .next (
      s.setDt (s.getV x)) := rfl

theorem exec_ldStVx (x : Reg) (s : State) : exec (.ldStVx x) s = .next (
      s.setSt (s.getV x)) := rfl

theorem exec_ldVxK (x : Reg) (s : State) : exec (.ldVxK x) s = .next (
      match s.lowestKey with
      | some k => s.setV x (BitVec.ofNat 8 k)
      | none => s.waitHere) := rfl

theorem exec_addI (x : Reg) (s : State) : exec (.addI x) s = .next (
      s.setIndex (s.index + wordOfByte (s.getV x))) := rfl

theorem exec_ldF (x : Reg) (s : State) : exec (.ldF x) s = .next (
      s.setIndex (wordOfByte (s.getV x) * 5)) := rfl

theorem exec_ldB (x : Reg) (s : State) : exec (.ldB x) s = .next (
      if s.beyondMemory 3 then s.raiseMem (.ldB x)
      else s.writeBytes (s.addrAt 0) (decimalDigits (s.getV x))) := rfl

theorem exec_ldMemVx (x : Reg) (s : State) : exec (.ldMemVx x) s = .next (
      if s.beyondMemory (x.val + 1) then s.raiseMem (.ldMemVx x)
      else s.writeBytes (s.addrAt 0) (s.regsUpTo x)) := rfl

theorem exec_ldVxMem (x : Reg) (s : State) : exec (.ldVxMem x) s = .next (
      if s.beyondMemory (x.val + 1) then s.raiseMem (.ldVxMem x) else s.loadRegs x) := rfl

/-- The instructions that only choose whether to skip leave the state or add 2 to pc. -/
theorem exec_skip_cases (i : Instr) (s t : State) (h : exec i s = .next t)
    (hi : (∃ x kk, i = .seImm x kk ∨ i = .sneImm x kk) ∨ ∃ x y, i = .seReg x y ∨ i = .sneReg x y) :
    t = s ∨ t = s.setPc (s.pc + 2) := by
  have key : ∀ c : Bool, skipIf c s = .next t → t = s ∨ t = s.setPc (s.pc + 2) := by
    intro c hc
    have hc := Host.Outcome.next.inj hc
    cases c
    · exact .inl hc.symm
    · exact .inr hc.symm
  rcases hi with ⟨x, kk, rfl | rfl⟩ | ⟨x, y, rfl | rfl⟩ <;> exact key _ h

end Sys2Proof.Machine
end

