-- ==== Sys2Proof/Laws/Sprite.lean ====
section
/-!
SUPPORT. The pixels of a draw in the terms of Sys2Proof/Safety.lean, and what a draw does at the edge.
-/

namespace Sys2Proof.Machine

/-- The pixels of a draw are those its set bits cover. -/
theorem mem_spritePixels_iff_covers (s : State) (vx vy n row col : Nat) :
    (col, row) ∈ spritePixels vx vy (s.readBytes n) ↔ spriteCovers s vx vy n row col = true := by
  rw [mem_spritePixels]
  simp only [spriteCovers, Bool.and_eq_true, decide_eq_true_eq]
  constructor
  · rintro ⟨k, hk, c, hc, hb, e⟩
    simp only [Prod.mk.injEq] at e
    obtain ⟨rfl, rfl⟩ := e
    simp [State.readBytes] at hk
    simp [State.readBytes, State.addrAt] at hb
    refine ⟨⟨⟨⟨by omega, by omega⟩, by omega⟩, by omega⟩, ?_⟩
    rw [show vy + k - vy = k by omega, show vx + c - vx = c by omega]; exact hb
  · rintro ⟨⟨⟨⟨h1, h2⟩, h3⟩, h4⟩, h5⟩
    refine ⟨row - vy, by simp [State.readBytes]; omega, col - vx, by omega, ?_, by simp; omega⟩
    simpa [State.readBytes, State.addrAt] using h5

/-- The check of a draw's bytes, with `n = 0` reading none. -/
theorem State.beyondMemory_eq_false (s : State) (n : Nat) :
    s.beyondMemory n = false ↔ (n = 0 ∨ s.index.toNat + n - 1 ≤ 4095) := by
  unfold State.beyondMemory State.addrAt
  rw [decide_eq_false_iff_not]
  simp only [memSize]
  omega

/-- The check of an access to at least one byte, as the fault table writes it. -/
theorem memFault_pred (s : State) (n : Nat) (hn : 0 < n) : memFault s (n - 1) =
    if s.beyondMemory n then some (.outOfBounds, .mem (beyondAddress s.index)) else none := by
  unfold memFault State.beyondMemory State.addrAt beyondAddress
  simp only [memSize, decide_eq_true_eq]
  congr 1
  rw [eq_iff_iff]; omega

/-- A draw that does not fault at the edge toggles its pixels in the grid. -/
theorem State.drawAtEdge_inGrid (s : State) (i : Instr) (ps : List (Nat × Nat))
    (h : s.cfg.drawEdge = .fault → ∀ p ∈ ps, offGrid p = false) :
    s.drawAtEdge i ps = s.drawPixels (ps.filter (fun p => !offGrid p)) := by
  unfold State.drawAtEdge
  split
  · rw [List.find?_eq_none.2 (fun p hp => by simp [h ‹_› p hp]), List.filter_eq_self.2]
    intro p hp
    simp [h ‹_› p hp]
  · rfl

/-- The first pixel outside the grid, as the fault table looks for it. -/
theorem find_offGrid_eq_firstOffGrid (s : State) (vx vy n : Nat) :
    (spritePixels vx vy (s.readBytes n)).find? offGrid = firstOffGrid s vx vy n := by
  unfold firstOffGrid
  suffices ∀ m k, m + k = n →
      (spritePixels vx (vy + m) ((List.range k).map (fun j => s.readMem (s.addrAt (m + j))))).find?
        offGrid =
      ((List.range k).flatMap (fun row =>
        (List.range 8).map (fun c => (vx + c, vy + (m + row))))).find?
          (fun p => spriteCovers s vx vy n p.2 p.1 && (63 < p.1 || 31 < p.2)) by
    have := this 0 n (by omega)
    simpa [State.readBytes] using this
  intro m k
  induction k generalizing m with
  | zero => intro _; simp [spritePixels]
  | succ k ih =>
    intro hk
    rw [List.range_succ_eq_map, List.map_cons, spritePixels, List.flatMap_cons, List.find?_append,
      List.find?_append]
    congr 1
    · rw [setColumns, List.find?_map, List.find?_filter, List.find?_map]
      congr 1
      apply List.find?_congr
      intro c hc
      have hc : c < 8 := by simpa using hc
      have h1 : vx + c - vx = c := by omega
      have h2 : vy + m - vy = m := by omega
      have h3 : vy + m < vy + n := by omega
      simp [offGrid, spriteCovers, h1, h2, h3, hc, State.addrAt]
      rw [Bool.eq_iff_iff]; simp; omega
    · have := ih (m + 1) (by omega)
      simp only [List.map_map, List.flatMap_map] at this ⊢
      rw [show vy + m + 1 = vy + (m + 1) by omega]
      have e : ∀ j, m + 1 + j = m + (j + 1) := by intro j; omega
      simp only [e] at this
      simpa [Function.comp_def] using this

end Sys2Proof.Machine
end

