-- ==== Sys2Proof/Laws/Effect.lean ====
section
/-!
SUPPORT. Dispatch said once: an instruction takes the fault of its own check, or has its effect, and the
effects never touch `halted` or the record.
-/

namespace Sys2Proof.Machine

/-- What each instruction does where its own check raises nothing. -/
def effect (i : Instr) (s : State) : State :=
  match i with
  | .cls => s.setDisplay Framebuffer.blank
  | .ret => s.popPc
  | .jp nnn => s.setPc (wordOfAddr nnn)
  | .call nnn => (s.push s.pc).setPc (wordOfAddr nnn)
  | .seImm x kk => if s.getV x = kk then s.skipNext else s
  | .sneImm x kk => if s.getV x = kk then s else s.skipNext
  | .seReg x y => if s.getV x = s.getV y then s.skipNext else s
  | .sneReg x y => if s.getV x = s.getV y then s else s.skipNext
  | .ldImm x kk => s.setV x kk
  | .addImm x kk => s.setV x (s.getV x + kk)
  | .ldReg x y => s.setV x (s.getV y)
  | .orReg x y => s.setV x (s.getV x ||| s.getV y)
  | .andReg x y => s.setV x (s.getV x &&& s.getV y)
  | .xorReg x y => s.setV x (s.getV x ^^^ s.getV y)
  | .addReg x y => s.setVThenFlag x (s.getV x + s.getV y) (carryOut (s.getV x) (s.getV y))
  | .sub x y => s.setVThenFlag x (s.getV x - s.getV y) (noBorrow (s.getV x) (s.getV y))
  | .shr x _ => s.setVThenFlag x (s.getV x >>> 1) (shiftedOutRight (s.getV x))
  | .subn x y => s.setVThenFlag x (s.getV y - s.getV x) (noBorrow (s.getV y) (s.getV x))
  | .shl x _ => s.setVThenFlag x (s.getV x <<< 1) (shiftedOutLeft (s.getV x))
  | .ldI nnn => s.setIndex (wordOfAddr nnn)
  | .jpV0 nnn => s.setPc (wordOfByte (s.getV 0) + wordOfAddr nnn)
  | .rnd x kk => s.dropRandom.setV x (s.randomByte &&& kk)
  | .drw x y n => s.drawPixels
      ((spritePixels (s.getV x).toNat (s.getV y).toNat (s.readBytes n)).filter (fun p => !offGrid p))
  | .skp x => if s.keyDown (s.getV x).toNat then s.skipNext else s
  | .sknp x => if s.keyDown (s.getV x).toNat then s else s.skipNext
  | .ldVxDt x => s.setV x s.dt
  | .ldVxK x =>
    match s.lowestKey with
    | some k => s.setV x (BitVec.ofNat 8 k)
    | none => s.waitHere
  | .ldDtVx x => s.setDt (s.getV x)
  | .ldStVx x => s.setSt (s.getV x)
  | .addI x => s.setIndex (s.index + wordOfByte (s.getV x))
  | .ldF x => s.setIndex (wordOfByte (s.getV x) * 5)
  | .ldB x => s.writeBytes (s.addrAt 0) (decimalDigits (s.getV x))
  | .ldMemVx x => s.writeBytes (s.addrAt 0) (s.regsUpTo x)
  | .ldVxMem x => s.loadRegs x

/-- Everything dispatch can do. -/
theorem exec_eq (i : Instr) (s : State) : exec i s = .next
    (match faultOfInstr s i with
    | some f => s.raiseIn i f.1 f.2
    | none => effect i s) := by
  cases i
  case drw x y n =>
    rw [exec_drw]
    simp only [faultOfInstr]
    have hm : (if n = 0 then none else memFault s (n - 1)) =
        if s.beyondMemory n then some (.outOfBounds, .mem (beyondAddress s.index)) else none := by
      by_cases hn : n = 0
      · subst hn; simp [State.beyondMemory]
      · rw [if_neg hn, memFault_pred _ _ (by omega)]
    rw [hm]
    by_cases hb : s.beyondMemory n = true
    · simp [hb, State.raiseMem]
    · simp only [hb, Bool.false_eq_true, if_false]
      congr 1
      cases hd : s.cfg.drawEdge
      · simp only [if_true]
        cases hf : firstOffGrid s (s.getV x).toNat (s.getV y).toNat n with
        | none =>
          rw [← find_offGrid_eq_firstOffGrid, List.find?_eq_none] at hf
          rw [s.drawAtEdge_inGrid _ _ (fun _ p hp => by simpa using hf p hp)]
          rfl
        | some p =>
          unfold State.drawAtEdge
          rw [find_offGrid_eq_firstOffGrid, hd, hf]
          rfl
      · rw [s.drawAtEdge_inGrid _ _ (fun h => by simp [hd] at h)]
        rfl
  case skp x =>
    rw [exec_skp]
    by_cases h : 15 < (s.getV x).toNat <;>
      simp [faultOfInstr, keyFault, noSuchKey, h, State.raiseKey, effect]
  case sknp x =>
    rw [exec_sknp]
    by_cases h : 15 < (s.getV x).toNat <;>
      simp [faultOfInstr, keyFault, noSuchKey, h, State.raiseKey, effect]
  case ret => rw [exec_ret]; by_cases h : s.sp.val = 0 <;> simp [faultOfInstr, h, effect]
  case call nnn => rw [exec_call]; by_cases h : s.sp.val = 16 <;> simp [faultOfInstr, h, effect]
  case ldB x =>
    rw [exec_ldB]
    have := memFault_pred s 3 (by omega)
    by_cases h : s.beyondMemory 3 = true <;> simp [faultOfInstr, this, h, State.raiseMem, effect]
  case ldMemVx x =>
    rw [exec_ldMemVx]
    have := memFault_pred s (x.val + 1) (by omega)
    simp only [Nat.add_sub_cancel] at this
    by_cases h : s.beyondMemory (x.val + 1) = true <;>
      simp [faultOfInstr, this, h, State.raiseMem, effect]
  case ldVxMem x =>
    rw [exec_ldVxMem]
    have := memFault_pred s (x.val + 1) (by omega)
    simp only [Nat.add_sub_cancel] at this
    by_cases h : s.beyondMemory (x.val + 1) = true <;>
      simp [faultOfInstr, this, h, State.raiseMem, effect]
  case seImm x kk => rw [exec_seImm]; simp [faultOfInstr, effect]
  case sneImm x kk => rw [exec_sneImm]; simp [faultOfInstr, effect]
  case seReg x y => rw [exec_seReg]; simp [faultOfInstr, effect]
  case sneReg x y => rw [exec_sneReg]; simp [faultOfInstr, effect]
  all_goals rfl

@[simp] theorem effect_halted (i : Instr) (s : State) : (effect i s).halted = s.halted := by
  cases i <;> simp only [effect] <;> (try split) <;> simp

@[simp] theorem effect_fault (i : Instr) (s : State) : (effect i s).fault = s.fault := by
  cases i <;> simp only [effect] <;> (try split) <;> simp

@[simp] theorem effect_cfg (i : Instr) (s : State) : (effect i s).cfg = s.cfg := by
  cases i <;> simp only [effect] <;> (try split) <;> simp

@[simp] theorem effect_key (i : Instr) (s : State) : (effect i s).key = s.key := by
  cases i <;> simp only [effect] <;> (try split) <;> simp

/-- No check looks at the pc, so the advance before dispatch changes none. -/
@[simp] theorem faultOfInstr_setPc (i : Instr) (s : State) (w : Word) :
    faultOfInstr (s.setPc w) i = faultOfInstr s i := by
  cases i <;> rfl

theorem faultOfInstr_advancePc (i : Instr) (s : State) :
    faultOfInstr s.advancePc i = faultOfInstr s i := faultOfInstr_setPc i s _

/-- Everything the cycle of a legal word can do. -/
theorem step_eq_of_decode (s : State) (i : Instr) (hh : s.halted = false) (hp : s.pc.toNat ≤ 4094)
    (hi : decodeWord s.fetchWord = some i) : step s = .next
    (match faultOfInstr s i with
    | some f => (s.advancePc.raiseIn i f.1 f.2).setTone false
    | none => (effect i s.advancePc).tick) := by
  rw [step_of_decode s _ i hh hp hi (exec_eq i s.advancePc), faultOfInstr_advancePc]
  cases faultOfInstr s i with
  | some f => simp [State.endCycle]
  | none => simp [State.endCycle, hh]

/-- The step of a halted core. -/
theorem step_of_halted (s : State) (h : s.halted = true) : step s = .next (s.setTone false) := by
  simp [step, cycle, h]

/-- Everything a step can do, with dispatch said as above. -/
theorem step_effect_cases (s t : State) (h : step s = .next t) :
    (s.halted = true ∧ t = s.setTone false) ∨
    (s.halted = false ∧ 4094 < s.pc.toNat ∧ t = s.raiseFetch.setTone false) ∨
    (s.halted = false ∧ s.pc.toNat ≤ 4094 ∧ decodeWord s.fetchWord = none ∧
      t = (s.raiseIllegal s.fetchWord).setTone false) ∨
    (s.halted = false ∧ s.pc.toNat ≤ 4094 ∧ ∃ i, decodeWord s.fetchWord = some i ∧
      ((∃ f, faultOfInstr s i = some f ∧ t = (s.advancePc.raiseIn i f.1 f.2).setTone false) ∨
       (faultOfInstr s i = none ∧ t = (effect i s.advancePc).tick))) := by
  rcases step_cases s t h with h1 | h1 | h1 | ⟨hh, hp, i, u, hd, -, -⟩
  · exact .inl h1
  · exact .inr (.inl h1)
  · exact .inr (.inr (.inl h1))
  · refine .inr (.inr (.inr ⟨hh, hp, i, hd, ?_⟩))
    rw [step_eq_of_decode s i hh hp hd] at h
    have h := Host.Outcome.next.inj h
    cases hf : faultOfInstr s i with
    | none => rw [hf] at h; exact .inr ⟨rfl, h.symm⟩
    | some f => rw [hf] at h; exact .inl ⟨f, rfl, h.symm⟩

end Sys2Proof.Machine
end

