-- ==== Sys2Proof/Laws/HostOps.lean ====
section
/-!
SUPPORT. The memory that `construct()` leaves: canonical, and zero at every address.
-/

namespace Sys2Proof.Machine

theorem Memory.wf_blankGlyphs (font : Font) : Memory.wf font (blankGlyphs font) := by
  constructor
  · unfold blankGlyphs
    rw [List.pairwise_map]
    exact List.pairwise_lt_range.filter _
  · intro c hc
    simp [blankGlyphs] at hc
    obtain ⟨a, ⟨h1, h2⟩, rfl⟩ := hc
    exact ⟨by simp; omega, fun h => h2 h.symm⟩

theorem Memory.lookup_blanked (font : Font) (a : Nat) (l : List Nat) :
    List.lookup a ((l.filter (fun b => Memory.unlisted font b ≠ 0)).map (fun b => (b, (0 : Byte)))) =
      if a ∈ l ∧ Memory.unlisted font a ≠ 0 then some 0 else none := by
  induction l with
  | nil => simp
  | cons x xs ih =>
    by_cases hx : Memory.unlisted font x ≠ 0
    · rw [List.filter_cons_of_pos (by simpa using hx), List.map_cons, Memory.lookup_cons, ih]
      by_cases e : a = x
      · subst e; simpa using hx
      · simp [e]
    · rw [List.filter_cons_of_neg (by simpa using hx), ih]
      by_cases e : a = x
      · subst e; simp at hx; simp [hx]
      · simp [e]

theorem Memory.read_blankGlyphs (font : Font) (a : Nat) : Memory.read font (blankGlyphs font) a = 0 := by
  unfold Memory.read blankGlyphs
  rw [Memory.lookup_blanked]
  by_cases h : Memory.unlisted font a = 0
  · simp [h]
  · have hm : a ∈ List.range fontLen := by
      rw [List.mem_range]
      by_contra hc
      exact h (by simp [Memory.unlisted, Vector.getElem?_eq_none (show 80 ≤ a by simpa using hc)])
    rw [if_pos ⟨hm, h⟩]
    rfl

end Sys2Proof.Machine
end

