-- ==== Sys2Proof/Laws/PerInstr.lean ====
section
/-!
SUPPORT. One lemma per instruction: the word of every instruction lies in a row of 30_encoding.md R75.
-/

namespace Sys2Proof.Laws

/-- The encoded word, under the mask of some row of R75, is that row's match value. -/
def EncodingRow.Statement (i : Instr) : Prop := ∃ row ∈ opcodeRows, encode i &&& row.2 = row.1

theorem EncodingRow.cls : EncodingRow.Statement .cls :=
  ⟨(0x00E0, 0xFFFF), by decide, rfl⟩

theorem EncodingRow.ret : EncodingRow.Statement .ret :=
  ⟨(0x00EE, 0xFFFF), by decide, rfl⟩

theorem EncodingRow.jp (nnn : Addr) : EncodingRow.Statement (.jp nnn) :=
  ⟨(0x1000, 0xF000), by decide, (encodeNNN_masked _ _).trans rfl⟩

theorem EncodingRow.call (nnn : Addr) : EncodingRow.Statement (.call nnn) :=
  ⟨(0x2000, 0xF000), by decide, (encodeNNN_masked _ _).trans rfl⟩

theorem EncodingRow.seImm (x : Reg) (kk : Byte) : EncodingRow.Statement (.seImm x kk) :=
  ⟨(0x3000, 0xF000), by decide, (encodeXKK_masked _ _ _).trans rfl⟩

theorem EncodingRow.sneImm (x : Reg) (kk : Byte) : EncodingRow.Statement (.sneImm x kk) :=
  ⟨(0x4000, 0xF000), by decide, (encodeXKK_masked _ _ _).trans rfl⟩

theorem EncodingRow.seReg (x y : Reg) : EncodingRow.Statement (.seReg x y) :=
  ⟨(0x5000, 0xF00F), by decide, (encodeXY_masked _ _ _ _).trans rfl⟩

theorem EncodingRow.sneReg (x y : Reg) : EncodingRow.Statement (.sneReg x y) :=
  ⟨(0x9000, 0xF00F), by decide, (encodeXY_masked _ _ _ _).trans rfl⟩

theorem EncodingRow.ldImm (x : Reg) (kk : Byte) : EncodingRow.Statement (.ldImm x kk) :=
  ⟨(0x6000, 0xF000), by decide, (encodeXKK_masked _ _ _).trans rfl⟩

theorem EncodingRow.addImm (x : Reg) (kk : Byte) : EncodingRow.Statement (.addImm x kk) :=
  ⟨(0x7000, 0xF000), by decide, (encodeXKK_masked _ _ _).trans rfl⟩

theorem EncodingRow.ldReg (x y : Reg) : EncodingRow.Statement (.ldReg x y) :=
  ⟨(0x8000, 0xF00F), by decide, (encodeXY_masked _ _ _ _).trans rfl⟩

theorem EncodingRow.orReg (x y : Reg) : EncodingRow.Statement (.orReg x y) :=
  ⟨(0x8001, 0xF00F), by decide, (encodeXY_masked _ _ _ _).trans rfl⟩

theorem EncodingRow.andReg (x y : Reg) : EncodingRow.Statement (.andReg x y) :=
  ⟨(0x8002, 0xF00F), by decide, (encodeXY_masked _ _ _ _).trans rfl⟩

theorem EncodingRow.xorReg (x y : Reg) : EncodingRow.Statement (.xorReg x y) :=
  ⟨(0x8003, 0xF00F), by decide, (encodeXY_masked _ _ _ _).trans rfl⟩

theorem EncodingRow.addReg (x y : Reg) : EncodingRow.Statement (.addReg x y) :=
  ⟨(0x8004, 0xF00F), by decide, (encodeXY_masked _ _ _ _).trans rfl⟩

theorem EncodingRow.sub (x y : Reg) : EncodingRow.Statement (.sub x y) :=
  ⟨(0x8005, 0xF00F), by decide, (encodeXY_masked _ _ _ _).trans rfl⟩

theorem EncodingRow.shr (x y : Reg) : EncodingRow.Statement (.shr x y) :=
  ⟨(0x8006, 0xF00F), by decide, (encodeXY_masked _ _ _ _).trans rfl⟩

theorem EncodingRow.subn (x y : Reg) : EncodingRow.Statement (.subn x y) :=
  ⟨(0x8007, 0xF00F), by decide, (encodeXY_masked _ _ _ _).trans rfl⟩

theorem EncodingRow.shl (x y : Reg) : EncodingRow.Statement (.shl x y) :=
  ⟨(0x800E, 0xF00F), by decide, (encodeXY_masked _ _ _ _).trans rfl⟩

theorem EncodingRow.ldI (nnn : Addr) : EncodingRow.Statement (.ldI nnn) :=
  ⟨(0xA000, 0xF000), by decide, (encodeNNN_masked _ _).trans rfl⟩

theorem EncodingRow.jpV0 (nnn : Addr) : EncodingRow.Statement (.jpV0 nnn) :=
  ⟨(0xB000, 0xF000), by decide, (encodeNNN_masked _ _).trans rfl⟩

theorem EncodingRow.rnd (x : Reg) (kk : Byte) : EncodingRow.Statement (.rnd x kk) :=
  ⟨(0xC000, 0xF000), by decide, (encodeXKK_masked _ _ _).trans rfl⟩

theorem EncodingRow.drw (x y : Reg) (n : Nat) : EncodingRow.Statement (.drw x y n) :=
  ⟨(0xD000, 0xF000), by decide, (encodeXYN_masked _ _ _ _).trans rfl⟩

theorem EncodingRow.skp (x : Reg) : EncodingRow.Statement (.skp x) :=
  ⟨(0xE09E, 0xF0FF), by decide, (encodeX_masked _ _ _).trans rfl⟩

theorem EncodingRow.sknp (x : Reg) : EncodingRow.Statement (.sknp x) :=
  ⟨(0xE0A1, 0xF0FF), by decide, (encodeX_masked _ _ _).trans rfl⟩

theorem EncodingRow.ldVxDt (x : Reg) : EncodingRow.Statement (.ldVxDt x) :=
  ⟨(0xF007, 0xF0FF), by decide, (encodeX_masked _ _ _).trans rfl⟩

theorem EncodingRow.ldDtVx (x : Reg) : EncodingRow.Statement (.ldDtVx x) :=
  ⟨(0xF015, 0xF0FF), by decide, (encodeX_masked _ _ _).trans rfl⟩

theorem EncodingRow.ldStVx (x : Reg) : EncodingRow.Statement (.ldStVx x) :=
  ⟨(0xF018, 0xF0FF), by decide, (encodeX_masked _ _ _).trans rfl⟩

theorem EncodingRow.ldVxK (x : Reg) : EncodingRow.Statement (.ldVxK x) :=
  ⟨(0xF00A, 0xF0FF), by decide, (encodeX_masked _ _ _).trans rfl⟩

theorem EncodingRow.addI (x : Reg) : EncodingRow.Statement (.addI x) :=
  ⟨(0xF01E, 0xF0FF), by decide, (encodeX_masked _ _ _).trans rfl⟩

theorem EncodingRow.ldF (x : Reg) : EncodingRow.Statement (.ldF x) :=
  ⟨(0xF029, 0xF0FF), by decide, (encodeX_masked _ _ _).trans rfl⟩

theorem EncodingRow.ldB (x : Reg) : EncodingRow.Statement (.ldB x) :=
  ⟨(0xF033, 0xF0FF), by decide, (encodeX_masked _ _ _).trans rfl⟩

theorem EncodingRow.ldMemVx (x : Reg) : EncodingRow.Statement (.ldMemVx x) :=
  ⟨(0xF055, 0xF0FF), by decide, (encodeX_masked _ _ _).trans rfl⟩

theorem EncodingRow.ldVxMem (x : Reg) : EncodingRow.Statement (.ldVxMem x) :=
  ⟨(0xF065, 0xF0FF), by decide, (encodeX_masked _ _ _).trans rfl⟩

end Sys2Proof.Laws
end

