-- ==== Sys2Proof/Tests/Slice0.lean ====
section
/-!
SUPPORT. Tests of single words and single steps, with the expected values of 95_test_vectors.md (the vector
is named in each comment) or worked out by hand from the rule named; and for every statement with
hypotheses a state and operands that meet them together.
-/

namespace Sys2Proof.Machine.Tests

/-! Helpers -/

/-- What `f` sees of the state one cycle after `s`, with the word `w` placed at pc. -/
def after {α : Type} (s : State) (w : Nat) (f : State → α) : Option α :=
  match step (s.withFetchWord 16 w) with
  | .next t => some (f t)
  | .fault _ => none
  | .refused _ => none

/-- The outcome is a next state of which `p` holds. -/
def holdsOn (o : Host.Outcome State Fault Refusal) (p : State → Bool) : Bool :=
  match o with
  | .next t => p t
  | .fault _ => false
  | .refused _ => false

theorem exists_next (o : Host.Outcome State Fault Refusal) (p : State → Bool)
    (h : holdsOn o p = true) : ∃ t, o = .next t ∧ p t = true := by
  cases o with
  | next t => exact ⟨t, rfl, h⟩
  | fault r => cases r
  | refused r => cases h

/-- What a faulted state shows: pc, `halted`, the record, the tone. -/
def report (t : State) : Word × Bool × Option FaultRecord × Bool := (t.pc, t.halted, t.fault, t.tone)

def withSp (n : Fin 17) (s : State) : State := { s with sp := n }
def withStack (k : Fin 16) (w : Word) (s : State) : State := { s with stack := s.stack.set k w }
def withKey (k : Fin 16) (s : State) : State := { s with key := s.key.set k true }
def withClip (s : State) : State := { s with cfg := { s.cfg with drawEdge := .clip } }
def withRandom (bs : List Byte) (s : State) : State := { s with random := bs }
def withPixel (row : Fin 32) (col : Fin 64) (s : State) : State :=
  { s with fb := s.fb.set row (s.fb[row].set col true) }

/-- `V1`, `V2` set. -/
def regs12 (a b : Byte) : State := (State.reset.setV 1 a).setV 2 b

/-- A sprite byte at 0x300, `I` there, and the coordinates in `V1`, `V2`. -/
def spriteAt (b x y : Byte) : State := ((regs12 x y).setIndex 0x300).writeMem 0x300 b

/-! Well-formedness: the one check of WellFormed.lean -/

/-- A draw of 16 rows has no encoding (30_encoding.md R72: `n` is 4 bits). -/
theorem test_illformed_draw_is_refused : (Instr.drw 1 2 16).wellFormed = false := by decide

theorem test_wellformed_draw : (Instr.drw 1 2 15).wellFormed = true := by decide

/-! Decoding: words written out bit by bit from the rows of 30_encoding.md R75 -/

theorem test_decode_fixed :
    decodeWord 0b0000_0000_1110_0000#16 = some .cls ∧
    decodeWord 0b0000_0000_1110_1110#16 = some .ret ∧
    decodeWord 0b0000_0000_1110_1111#16 = none := by decide

theorem test_decode_address :
    decodeWord 0b0001_1010_1011_1100#16 = some (.jp 0xABC) ∧
    decodeWord 0b0010_1010_1011_1100#16 = some (.call 0xABC) ∧
    decodeWord 0b1010_1111_0000_0001#16 = some (.ldI 0xF01) ∧
    decodeWord 0b1011_0001_0010_0011#16 = some (.jpV0 0x123) := by decide

theorem test_decode_immediate :
    decodeWord 0b0011_1010_0100_0010#16 = some (.seImm 10 0x42) ∧
    decodeWord 0b0100_1010_0100_0010#16 = some (.sneImm 10 0x42) ∧
    decodeWord 0b0110_1111_1010_1011#16 = some (.ldImm 15 0xAB) ∧
    decodeWord 0b0111_0001_1111_1111#16 = some (.addImm 1 0xFF) ∧
    decodeWord 0b1100_0011_0000_1111#16 = some (.rnd 3 0x0F) := by decide

theorem test_decode_skip_registers :
    decodeWord 0b0101_0001_0010_0000#16 = some (.seReg 1 2) ∧
    decodeWord 0b1001_0001_0010_0000#16 = some (.sneReg 1 2) ∧
    decodeWord 0b0101_0001_0010_0001#16 = none ∧
    decodeWord 0b1001_0001_0010_1110#16 = none := by decide

theorem test_decode_registers :
    decodeWord 0b1000_0001_0010_0000#16 = some (.ldReg 1 2) ∧
    decodeWord 0b1000_0001_0010_0001#16 = some (.orReg 1 2) ∧
    decodeWord 0b1000_0001_0010_0010#16 = some (.andReg 1 2) ∧
    decodeWord 0b1000_0001_0010_0011#16 = some (.xorReg 1 2) ∧
    decodeWord 0b1000_0001_0010_1000#16 = none := by decide

theorem test_decode_registers_with_flag :
    decodeWord 0b1000_0001_0010_0100#16 = some (.addReg 1 2) ∧
    decodeWord 0b1000_0001_0010_0101#16 = some (.sub 1 2) ∧
    decodeWord 0b1000_0001_1111_0110#16 = some (.shr 1 15) ∧
    decodeWord 0b1000_0001_0010_0111#16 = some (.subn 1 2) ∧
    decodeWord 0b1000_0001_0000_1110#16 = some (.shl 1 0) := by decide

theorem test_decode_draw_and_keys :
    decodeWord 0b1101_0001_0010_0011#16 = some (.drw 1 2 3) ∧
    decodeWord 0b1110_0001_1001_1110#16 = some (.skp 1) ∧
    decodeWord 0b1110_0001_1010_0001#16 = some (.sknp 1) ∧
    decodeWord 0b1110_0001_1001_1111#16 = none := by decide

theorem test_decode_timers_and_wait :
    decodeWord 0b1111_0001_0000_0111#16 = some (.ldVxDt 1) ∧
    decodeWord 0b1111_0001_0000_1010#16 = some (.ldVxK 1) ∧
    decodeWord 0b1111_0001_0001_0101#16 = some (.ldDtVx 1) ∧
    decodeWord 0b1111_0001_0001_1000#16 = some (.ldStVx 1) := by decide

theorem test_decode_index_and_memory :
    decodeWord 0b1111_0001_0001_1110#16 = some (.addI 1) ∧
    decodeWord 0b1111_0001_0010_1001#16 = some (.ldF 1) ∧
    decodeWord 0b1111_0000_0011_0011#16 = some (.ldB 0) ∧
    decodeWord 0b1111_0011_0101_0101#16 = some (.ldMemVx 3) ∧
    decodeWord 0b1111_0010_0110_0101#16 = some (.ldVxMem 2) ∧
    decodeWord 0b1111_0001_0111_0101#16 = none := by decide

/-- 20_memory.md R54: the high byte comes first. -/
theorem test_decode_bytes : decode [0x6A, 0x12, 0xFF] = .instr (.ldImm 10 0x12) [0xFF] := by decide

theorem test_decode_short : decode [0x6A] = .truncated := by decide

theorem test_encode :
    encode (.drw 1 2 3) = 0xD123 ∧ encode (.shr 1 15) = 0x81F6 ∧ encode (.ldMemVx 3) = 0xF355 := by decide

/-- The table's numbering: bit 0 is the least significant bit of the word. -/
theorem test_decodeTableWord :
    decodeTableWord 16 0x7AFF = some (.addImm 10 0xFF) ∧ decodeTableWord 16 0x5121 = none := by decide

/-! Control transfer (41_control_flow.md) -/

/-- T3. -/
theorem test_ret : after (withSp 16 (withStack 15 0x0ABC State.reset)) 0x00EE
    (fun t => (t.pc, t.sp, t.halted)) = some (0x0ABC, 15, false) := by decide

/-- T2. -/
theorem test_ret_underflow : after (withStack 0 0x0456 State.reset) 0x00EE report =
    some (0x200, true, some ⟨.stackUnderflow, 0x200, some 0x00EE, .none⟩, false) := by decide

/-- T4. -/
theorem test_jp : after State.reset 0x1ABC (fun t => t.pc) = some 0x0ABC := by decide

/-- T8. -/
theorem test_call : after (withSp 15 State.reset) 0x2ABC
    (fun t => (t.pc, t.sp, t.stack[15])) = some (0x0ABC, 16, 0x0202) := by decide

/-- T9. -/
theorem test_call_overflow : after (withSp 16 State.reset) 0x2ABC report =
    some (0x200, true, some ⟨.stackOverflow, 0x200, some 0x2ABC, .none⟩, false) := by decide

/-- T12. -/
theorem test_jpV0 : after (State.reset.setV 0 0xFF) 0xBFFF (fun t => t.pc) = some 0x10FE := by decide

/-- T14, T15. -/
theorem test_seImm : after (State.reset.setV 10 0x42) 0x3A42 (fun t => t.pc) = some 0x204 ∧
    after (State.reset.setV 10 0x43) 0x3A42 (fun t => t.pc) = some 0x202 := by decide

/-- T16, T17. -/
theorem test_sneImm : after (State.reset.setV 10 0x43) 0x4A42 (fun t => t.pc) = some 0x204 ∧
    after (State.reset.setV 10 0x42) 0x4A42 (fun t => t.pc) = some 0x202 := by decide

/-- T18, T19. -/
theorem test_seReg : after (regs12 9 9) 0x5120 (fun t => t.pc) = some 0x204 ∧
    after (regs12 9 8) 0x5120 (fun t => t.pc) = some 0x202 := by decide

/-- T21, T22. -/
theorem test_sneReg : after (regs12 9 8) 0x9120 (fun t => t.pc) = some 0x204 ∧
    after (regs12 9 9) 0x9120 (fun t => t.pc) = some 0x202 := by decide

/-! Registers and ALU (42_alu.md) -/

/-- A2. -/
theorem test_ldImm : after State.reset 0x6FAB (fun t => (t.pc, t.getV 15)) = some (0x202, 0xAB) := by decide

/-- A3. -/
theorem test_addImm : after ((State.reset.setV 10 2).setV 15 0x55) 0x7AFF
    (fun t => (t.getV 10, t.getV 15)) = some (1, 0x55) := by decide

/-- A7. -/
theorem test_ldReg : after (regs12 0x11 0x22) 0x8120
    (fun t => (t.getV 1, t.getV 2)) = some (0x22, 0x22) := by decide

/-- A9, A10, A11. -/
theorem test_bitwise :
    after ((regs12 0x0C 0x0A).setV 15 7) 0x8121 (fun t => (t.getV 1, t.getV 15)) = some (0x0E, 7) ∧
    after ((regs12 0x0C 0x0A).setV 15 7) 0x8122 (fun t => (t.getV 1, t.getV 15)) = some (0x08, 7) ∧
    after ((regs12 0x0C 0x0A).setV 15 7) 0x8123 (fun t => (t.getV 1, t.getV 15)) = some (0x06, 7) := by
  decide

/-- A15. -/
theorem test_addReg : after (regs12 0xFF 0x01) 0x8124
    (fun t => (t.getV 1, t.getV 15)) = some (0, 1) := by decide

/-- A19: the flag wins over the sum. -/
theorem test_addReg_into_flag : after ((State.reset.setV 15 0xF0).setV 1 0x20) 0x8F14
    (fun t => t.getV 15) = some 1 := by decide

/-- A23, A24. -/
theorem test_sub : after (regs12 5 5) 0x8125 (fun t => (t.getV 1, t.getV 15)) = some (0, 1) ∧
    after (regs12 3 5) 0x8125 (fun t => (t.getV 1, t.getV 15)) = some (0xFE, 0) := by decide

/-- A31, A36. -/
theorem test_shr : after (regs12 5 0xFF) 0x8126 (fun t => (t.getV 1, t.getV 2, t.getV 15)) =
      some (2, 0xFF, 1) ∧
    after (State.reset.setV 15 2) 0x8F06 (fun t => t.getV 15) = some 0 := by decide

/-- A38, A39. -/
theorem test_subn : after (regs12 5 3) 0x8127 (fun t => (t.getV 1, t.getV 15)) = some (0xFE, 0) ∧
    after (regs12 7 7) 0x8127 (fun t => (t.getV 1, t.getV 15)) = some (0, 1) := by decide

/-- A43, A47. -/
theorem test_shl : after (regs12 0x81 0xFF) 0x812E (fun t => (t.getV 1, t.getV 2, t.getV 15)) =
      some (2, 0xFF, 1) ∧
    after (State.reset.setV 15 0x7F) 0x8F0E (fun t => t.getV 15) = some 0 := by decide

/-- A48. -/
theorem test_rnd : after (withRandom [0xA7, 0x55] State.reset) 0xC30F
    (fun t => (t.getV 3, t.random)) = some (7, [0x55]) := by decide

/-! Index register and memory (43_index_memory.md) -/

/-- I1. -/
theorem test_ldI : after State.reset 0xAFFF (fun t => t.index) = some 0x0FFF := by decide

/-- I4. -/
theorem test_addI : after ((State.reset.setIndex 0xFFFF).setV 1 2) 0xF11E
    (fun t => (t.index, t.getV 15)) = some (1, 0) := by decide

/-- I8. -/
theorem test_ldF : after (State.reset.setV 1 0xFF) 0xF129 (fun t => t.index) = some 0x04FB := by decide

/-- I14. -/
theorem test_ldB : after ((State.reset.setV 1 0x64).setIndex 0x0FFD) 0xF133
    (fun t => (t.readMem 0xFFD, t.readMem 0xFFE, t.readMem 0xFFF)) = some (1, 0, 0) := by decide

/-- I16: no wrap to the bottom of memory. -/
theorem test_ldB_beyond : after ((State.reset.setV 1 0x64).setIndex 0xFFFF) 0xF133 report =
    some (0x200, true, some ⟨.outOfBounds, 0x200, some 0xF133, .mem 0xFFFF⟩, false) := by decide

/-- I19. -/
theorem test_ldMemVx : after (((State.reset.setV 0 0xAB).setV 1 0xCD).setIndex 0x400) 0xF055
    (fun t => (t.readMem 0x400, t.readMem 0x401, t.index)) = some (0xAB, 0, 0x400) := by decide

/-- I21: not even the bytes in range are written. -/
theorem test_ldMemVx_beyond : after ((State.reset.setV 0 0x5A).setIndex 0x0FF1) 0xFF55
    (fun t => (t.readMem 0xFF1, t.fault)) =
    some (0, some ⟨.outOfBounds, 0x200, some 0xFF55, .mem 4096⟩) := by decide

/-- I24: it reads its own opcode byte. -/
theorem test_ldVxMem : after (State.reset.setIndex 0x200) 0xF065
    (fun t => (t.getV 0, t.getV 1)) = some (0xF0, 0) := by decide

/-- I22. -/
theorem test_ldVxMem_beyond : after (State.reset.setIndex 0x1000) 0xF065 report =
    some (0x200, true, some ⟨.outOfBounds, 0x200, some 0xF065, .mem 4096⟩, false) := by decide

/-! Display (44_display.md) -/

/-- G1. -/
theorem test_cls : after (withPixel 31 63 (withPixel 0 0 State.reset)) 0x00E0
    (fun t => (t.fb.pixel 0 0, t.fb.pixel 31 63, t.redraw)) = some (false, false, true) := by decide

/-- G4. -/
theorem test_drw : after (withPixel 5 11 (withPixel 5 12 (spriteAt 0xA0 10 5))) 0xD121
    (fun t => ((t.fb.pixel 5 10, t.fb.pixel 5 11, t.fb.pixel 5 12), t.getV 15, t.redraw)) =
    some ((true, true, false), 1, true) := by decide

/-- G6, G7: the two values of `DRAW_EDGE`. -/
theorem test_drw_edge :
    after (spriteAt 0xC0 63 31) 0xD121 (fun t => (t.fault, t.fb.pixel 31 63)) =
      some (some ⟨.outOfBounds, 0x200, some 0xD121, .fb 64 31⟩, false) ∧
    after (withClip (spriteAt 0xC0 63 31)) 0xD121 (fun t => (t.fault, t.fb.pixel 31 63)) =
      some (none, true) := by decide

/-! Keypad and timers (45_keypad_timers.md) -/

/-- K1, K3. -/
theorem test_skp : after (withKey 3 (State.reset.setV 1 3)) 0xE19E (fun t => t.pc) = some 0x204 ∧
    after (withKey 0 (State.reset.setV 1 16)) 0xE19E (fun t => t.fault) =
      some (some ⟨.outOfBounds, 0x200, some 0xE19E, .key 16⟩) := by decide

/-- K5, K6. -/
theorem test_sknp : after (State.reset.setV 1 3) 0xE1A1 (fun t => t.pc) = some 0x204 ∧
    after (withKey 3 (State.reset.setV 1 3)) 0xE1A1 (fun t => t.pc) = some 0x202 := by decide

/-- K9, K10. -/
theorem test_ldVxK :
    after (withKey 7 (withKey 11 (State.reset.setV 1 0x77))) 0xF10A (fun t => (t.pc, t.getV 1)) =
      some (0x202, 7) ∧
    after (State.reset.setV 1 0x77) 0xF10A (fun t => (t.pc, t.getV 1)) = some (0x200, 0x77) := by decide

/-- M1. -/
theorem test_ldVxDt : after (State.reset.setDt 42) 0xF107
    (fun t => (t.getV 1, t.dt)) = some (42, 41) := by decide

/-- M4. -/
theorem test_ldDtVx : after (State.reset.setV 1 5) 0xF115 (fun t => t.dt) = some 4 := by decide

/-- M8, M9. -/
theorem test_ldStVx : after (State.reset.setV 1 1) 0xF118 (fun t => (t.st, t.tone)) = some (0, true) ∧
    after (State.reset.setSt 9) 0xF118 (fun t => (t.st, t.tone)) = some (0, false) := by decide

/-! The cycle and the host -/

/-- E3, E4: the last legal pc, and the first illegal one. -/
theorem test_fetch_edge :
    after (State.reset.setPc 0xFFE) 0x6A12 (fun t => (t.pc, t.getV 10)) = some (0x1000, 0x12) ∧
    holdsOn (step (State.reset.setPc 0xFFF)) (fun t => report t =
      (0xFFF, true, some ⟨.outOfBounds, 0xFFF, none, .fetch 4096⟩, false)) = true := by decide

/-- M15: no tick in a cycle that faults. -/
theorem test_no_tick_on_fault : after ((State.reset.setDt 3).setSt 2) 0x0000
    (fun t => (t.dt, t.st, t.tone)) = some (3, 2, false) := by decide

/-- S7: the word of a loaded ROM. -/
theorem test_loadRom : (loadRom [0x12, 0x34] State.reset).fetchWord = 0x1234 := by decide

/-- 70_reset_and_hazards.md R250. -/
theorem test_construct : holdsOn (step (constructCore State.reset)) (fun t => t.fault =
    some ⟨.unrecognizedOpcode, 0, some 0, .none⟩) = true := by decide +kernel

/-! Witnesses: a state and operands that meet all the hypotheses of a statement together -/

/-- EncodeOfDecodeGivesWord. -/
theorem witness_decoded_word : decodeWord 0xD12F = some (.drw 1 2 15) := by decide

/-- LegalWordMatchesExactlyOnePattern, the clause on rows: the last row, with a word that matches it and one
that does not. -/
theorem witness_row : opcodeRows[33]? = some (0xF065, 0xF0FF) ∧ opcodeRows[34]? = none ∧
    (0xFF65 : Word) &&& 0xF0FF = 0xF065 ∧ (0xFF66 : Word) &&& 0xF0FF ≠ 0xF065 := by decide

/-- EveryWordIsThatOfTheOpcodeMap: the largest operands, well formed, and the word 30_encoding.md R75 gives. -/
theorem witness_map_word : (Instr.drw 15 15 15).wellFormed = true ∧ wordByMap (.drw 15 15 15) = 0xDFFF ∧
    wordByMap (.sub 1 2) = 0x8125 ∧ wordByMap (.subn 1 2) = 0x8127 := by decide

/-- StepRunsDecodedInstruction, at the last legal pc. -/
theorem witness_step_runs : ∃ (s t : State) (i : Instr), s.halted = false ∧ s.pc.toNat = 4094 ∧
    decode [s.readMem s.pc.toNat, s.readMem (s.pc.toNat + 1)] = .instr i [] ∧
    exec i { s with pc := s.pc + 2 } = .next t ∧ t.halted = false :=
  ⟨(State.reset.setPc 4094).placeWord 0x6A12, _, .ldImm 10 0x12, by decide, by decide, by decide, rfl,
    by decide⟩

/-- The same with a dispatch that faults. -/
theorem witness_step_runs_fault : ∃ (s t : State) (i : Instr), s.halted = false ∧ s.pc.toNat ≤ 4094 ∧
    decode [s.readMem s.pc.toNat, s.readMem (s.pc.toNat + 1)] = .instr i [] ∧
    exec i { s with pc := s.pc + 2 } = .next t ∧ t.halted = true :=
  ⟨State.reset.placeWord 0x00EE, _, .ret, by decide, by decide, by decide, rfl, by decide⟩

/-- FetchReadsBigEndianWordOrFaults: both clauses at their boundary. -/
theorem witness_fetch : (State.reset.setPc 4094).pc.toNat ≤ 4094 ∧
    (State.reset.setPc 4095).halted = false ∧ 4094 < (State.reset.setPc 4095).pc.toNat := by decide

/-- IllegalWordFaults, first clause: the zero bytes at reset. -/
theorem witness_illegal_word : State.reset.halted = false ∧ State.reset.pc.toNat ≤ 4094 ∧
    decode [State.reset.readMem State.reset.pc.toNat, State.reset.readMem (State.reset.pc.toNat + 1)] =
      .illegal 0 := by decide

/-- IllegalWordFaults, second clause. -/
theorem witness_dispatch_fault : ∃ (t : State) (r : FaultRecord), exec .ret State.reset = .next t ∧
    State.reset.halted = false ∧ t.halted = true ∧ t.fault = some r :=
  ⟨_, _, rfl, by decide, by decide, rfl⟩

/-- HaltedCoreDoesNothing; OnlyResetEndsHaltedState, with the keys set on a halted core. -/
theorem witness_halted : ∃ s t : State, s.halted = true ∧
    transact (.setKeys (Vector.replicate 16 true)) s = .next t ∧
    Transaction.setKeys (Vector.replicate 16 true) ≠ .powerOn ∧
    Transaction.setKeys (Vector.replicate 16 true) ≠ .reset :=
  ⟨{ State.reset with halted := true, fault := some ⟨.stackUnderflow, 0x200, some 0x00EE, .none⟩ }, _,
    rfl, rfl, by decide, by decide⟩

/-- FaultingCycleIsPrecise, StepKeepsInvariant, CycleFaultsExactlyAsTable, StepNeverWritesKeysOrParameters:
the first cycle from reset. -/
theorem witness_first_cycle : Inv State.reset ∧ State.reset.halted = false ∧
    ∃ t, step State.reset = .next t ∧ t.halted = true :=
  ⟨by decide, by decide, by
    obtain ⟨t, h, p⟩ := exists_next (step State.reset) (fun t => t.halted) (by decide)
    exact ⟨t, h, p⟩⟩

/-- CompletedCycleTicksBothTimers, CompletedCycleLeavesPcAsListed. -/
theorem witness_completed_cycle : ∃ (s t : State) (i : Instr), s.halted = false ∧ s.pc.toNat ≤ 4094 ∧
    decodeWord s.fetchWord = some i ∧ step s = .next t ∧ t.halted = false := by
  obtain ⟨t, h, p⟩ := exists_next (step (State.reset.placeWord 0xF118)) (fun t => !t.halted) (by decide)
  exact ⟨_, t, .ldStVx 1, by decide, by decide, by decide, h, by simpa using p⟩

/-- TransactionsKeepInvariant. -/
theorem witness_transaction : Inv State.reset ∧
    ∃ t, transact (.loadRom [0x60, 0x05]) State.reset = .next t :=
  ⟨by decide, _, rfl⟩

/-- CanonicalMemoriesReadAlikeAreEqual: writing and undoing it, and writing nothing. -/
theorem witness_canonical : Memory.wf Config.defaultFont [(0x200, 1), (0x300, 2)] ∧
    Memory.write Config.defaultFont [(0x200, 1), (0x300, 2)] 0x300 2 = [(0x200, 1), (0x300, 2)] ∧
    Memory.write Config.defaultFont [(0x200, 1), (0x300, 2)] 0x300 0 = [(0x200, 1)] := by decide

/-- OnlyDisplayInstructionsChangeScreen. -/
theorem witness_screen_changes : ∃ s t : State, step s = .next t ∧
    (t.fb ≠ s.fb ∨ t.redraw ≠ s.redraw) := by
  obtain ⟨t, h, p⟩ := exists_next (step (State.reset.placeWord 0x00E0)) (fun t => t.redraw) (by decide)
  exact ⟨_, t, h, .inr (by rw [p]; decide)⟩

/-- OnlyStoresChangeMemory. -/
theorem witness_memory_changes : ∃ s t : State, step s = .next t ∧ t.mem ≠ s.mem := by
  obtain ⟨t, h, p⟩ := exists_next (step (((State.reset.setV 0 1).setIndex 0x400).placeWord 0xF055))
    (fun t => t.mem ≠ (((State.reset.setV 0 1).setIndex 0x400).placeWord 0xF055).mem) (by decide)
  exact ⟨_, t, h, of_decide_eq_true p⟩

/-- OnlyCallAndReturnMoveStack: a call changes the stack and the pointer, a return the pointer. -/
theorem witness_stack_moves : (∃ s t : State, step s = .next t ∧ t.stack ≠ s.stack ∧ t.sp ≠ s.sp) ∧
    ∃ s t : State, step s = .next t ∧ t.sp ≠ s.sp := by
  obtain ⟨t, h, p⟩ := exists_next (step (State.reset.placeWord 0x2ABC))
    (fun t => t.stack ≠ State.reset.stack ∧ t.sp ≠ State.reset.sp) (by decide)
  obtain ⟨u, k, q⟩ := exists_next (step ((withSp 1 State.reset).placeWord 0x00EE))
    (fun t => t.sp ≠ (withSp 1 State.reset).sp) (by decide)
  exact ⟨⟨_, t, h, of_decide_eq_true p⟩, _, u, k, of_decide_eq_true q⟩

/-- FlagRegisterWrittenOnlyAsListed: the flag as a flag, and as a destination. -/
theorem witness_flag_changes :
    (∃ (s t : State), exec (.addReg 1 2) s = .next t ∧ t.getV flagReg ≠ s.getV flagReg ∧
      writesFlag (.addReg 1 2) = true ∧ t.halted = false) ∧
    ∃ (s t : State), exec (.ldImm 15 9) s = .next t ∧ t.getV flagReg ≠ s.getV flagReg :=
  ⟨⟨regs12 0xFF 1, _, rfl, by decide, by decide, by decide⟩, State.reset, _, rfl, by decide⟩

/-- OnlyRandomInstructionDependsOnGenerator: a word that is not `Cxkk`; and a cycle with one. -/
theorem witness_not_random : (∃ s t : State, (∀ x kk, decodeWord s.fetchWord ≠ some (.rnd x kk)) ∧
    step s = .next t) ∧ ∃ s t : State, executeCycle 0xA7 s = .next t ∧ t.getV 3 = 0xA7 := by
  obtain ⟨t, h, -⟩ := exists_next (step (State.reset.placeWord 0x6005)) (fun _ => true) (by decide)
  obtain ⟨u, k, p⟩ := exists_next (executeCycle 0xA7 (State.reset.placeWord 0xC3FF))
    (fun t => t.getV 3 = 0xA7) (by decide)
  have e : decodeWord (State.reset.placeWord 0x6005).fetchWord = some (.ldImm 0 5) := by decide
  exact ⟨⟨_, t, fun x kk => by rw [e]; simp, h⟩, _, u, k, by simpa using p⟩

/-- ExecuteCycleSuppliesRandomByte. -/
theorem witness_random_cycle : (State.reset.placeWord 0xC30F).halted = false ∧
    (State.reset.placeWord 0xC30F).pc.toNat ≤ 4094 ∧
    decodeWord (State.reset.placeWord 0xC30F).fetchWord = some (.rnd 3 0x0F) := by decide

/-- StoreIsSeenByNextFetch: `F155` at 0x200 with `I = 0x202`. -/
theorem witness_store_then_fetch : ∃ s t : State, s.halted = false ∧ s.pc.toNat ≤ 4094 ∧
    decodeWord s.fetchWord = some (.ldMemVx 1) ∧ s.index.toNat + (1 : Reg).val ≤ 4095 ∧
    s.pc.toNat + 2 = s.index.toNat + (0 : Fin 16).val ∧ (1 : Fin 16).val = (0 : Fin 16).val + 1 ∧
    (1 : Fin 16).val ≤ (1 : Reg).val ∧ step s = .next t ∧ t.fetchWord = 0x6005 := by
  obtain ⟨t, h, p⟩ := exists_next
    (step ((((State.reset.setV 0 0x60).setV 1 0x05).setIndex 0x202).placeWord 0xF155))
    (fun t => t.fetchWord = 0x6005) (by decide)
  exact ⟨_, t, by decide, by decide, by decide, by decide, by decide, by decide, by decide, h,
    by simpa using p⟩

/-- ReturnPopsOrFaults, CallPushesOrFaults: the pointer at both ends of each clause. -/
theorem witness_stack_clauses : (withSp 1 State.reset).sp.val = (0 : Fin 16).val + 1 ∧
    (withSp 16 State.reset).sp.val = (15 : Fin 16).val + 1 ∧ State.reset.sp.val = 0 ∧
    State.reset.sp.val = (0 : Fin 16).val ∧ (withSp 15 State.reset).sp.val = (15 : Fin 16).val ∧
    (withSp 16 State.reset).sp.val = 16 := by decide

/-- AddWritesSumThenCarry, SubtractsWriteDifferenceThenNoBorrow, ShiftsWriteResultThenBitOut: the clause on
a destination that is not the flag register, at its boundary. -/
theorem witness_not_flag : (14 : Reg) ≠ flagReg := by decide

/-- RandomIsMaskedGeneratorByte: a byte is ready; none is. -/
theorem witness_random_clauses : (withRandom [0xA7] State.reset).random = 0xA7 :: [] ∧
    State.reset.random = [] := by decide

/-- DecimalStoreWritesThreeDigits and the first clause of AccessBeyondMemoryFaults. -/
theorem witness_decimal_bounds : (State.reset.setIndex 4093).index.toNat ≤ 4093 ∧
    4093 < (State.reset.setIndex 4094).index.toNat := by decide

/-- RegisterStoreWritesAscending, RegisterLoadReadsAscending and the next two clauses of
AccessBeyondMemoryFaults. -/
theorem witness_range_bounds : (State.reset.setIndex 0xFF0).index.toNat + (15 : Reg).val ≤ 4095 ∧
    4095 < (State.reset.setIndex 0xFF1).index.toNat + (15 : Reg).val := by decide

/-- The last clause of AccessBeyondMemoryFaults. -/
theorem witness_sprite_bytes_beyond : 0 < 2 ∧ 4095 < (State.reset.setIndex 4095).index.toNat + 2 - 1 := by
  decide

/-- DrawTogglesPixelsUnderSetBits under `Fault`: the last byte of memory, blank here, drawn anywhere. -/
theorem witness_draw_fault_policy : ((1 : Nat) = 0 ∨ (State.reset.setIndex 4095).index.toNat + 1 - 1 ≤ 4095) ∧
    (State.reset.setIndex 4095).cfg.drawEdge = .fault ∧
    ∀ row col, spriteCovers (State.reset.setIndex 4095) 0 0 1 row col → row ≤ 31 ∧ col ≤ 63 := by
  refine ⟨by decide, by decide, fun row col h => ?_⟩
  simp only [spriteCovers, Bool.and_eq_true, decide_eq_true_eq] at h
  omega

/-- The same with lit bits in the corner of the grid. -/
theorem witness_draw_in_corner : ((1 : Nat) = 0 ∨ (spriteAt 0xFF 56 31).index.toNat + 1 - 1 ≤ 4095) ∧
    ((spriteAt 0xFF 56 31).cfg.drawEdge = .fault → ∀ row col,
      spriteCovers (spriteAt 0xFF 56 31) ((spriteAt 0xFF 56 31).getV 1).toNat
        ((spriteAt 0xFF 56 31).getV 2).toNat 1 row col → row ≤ 31 ∧ col ≤ 63) ∧
    spriteCovers (spriteAt 0xFF 56 31) 56 31 1 31 63 = true := by
  have e1 : ((spriteAt 0xFF 56 31).getV 1).toNat = 56 := by decide
  have e2 : ((spriteAt 0xFF 56 31).getV 2).toNat = 31 := by decide
  refine ⟨by decide, fun _ row col h => ?_, by decide⟩
  rw [e1, e2] at h
  simp only [spriteCovers, Bool.and_eq_true, decide_eq_true_eq] at h
  omega

/-- DrawTogglesPixelsUnderSetBits under `Clip`, and with no rows. -/
theorem witness_draw_clip : (withClip (spriteAt 0xC0 63 31)).cfg.drawEdge ≠ .fault ∧
    (withClip (spriteAt 0xC0 63 31)).index.toNat + 1 - 1 ≤ 4095 ∧ ((0 : Nat) = 0 ∨ 0xFFFF + 0 - 1 ≤ 4095) := by
  decide

/-- DrawOffGridFaultsUnderFaultPolicy: column 64. -/
theorem witness_draw_off_grid : ((1 : Nat) = 0 ∨ (spriteAt 0xC0 63 31).index.toNat + 1 - 1 ≤ 4095) ∧
    (spriteAt 0xC0 63 31).cfg.drawEdge = .fault ∧
    firstOffGrid (spriteAt 0xC0 63 31) ((spriteAt 0xC0 63 31).getV 1).toNat
      ((spriteAt 0xC0 63 31).getV 2).toNat 1 = some (64, 31) := by decide

/-- DrawingTwiceRestoresScreen. -/
theorem witness_draw_twice : ∃ s t u : State, (1 : Reg) ≠ flagReg ∧ (2 : Reg) ≠ flagReg ∧
    u.halted = false ∧ exec (.drw 1 2 1) s = .next t ∧ exec (.drw 1 2 1) t = .next u :=
  ⟨spriteAt 0xA0 10 5, _, _, by decide, by decide, by decide, rfl, rfl⟩

/-- KeySkipsTestKeyOrFault: the last key, and the first number that is none. -/
theorem witness_key_clauses : ((State.reset.setV 1 15).getV 1).toNat = (15 : Fin 16).val ∧
    15 < ((State.reset.setV 1 16).getV 1).toNat := by decide

/-- KeyWaitLatchesLowestKey: key 15 alone, and no key. -/
theorem witness_key_wait : ((withKey 15 State.reset).key[(15 : Fin 16)] = true ∧
    ∀ j : Fin 16, j < 15 → (withKey 15 State.reset).key[j] = false) ∧
    ∀ k : Fin 16, State.reset.key[k] = false := by decide

/-- LoadRomWritesOrRejects, LoadAfterInitializeKeepsLowMemory: the longest ROM, and one byte more. -/
theorem witness_rom_bounds : (List.replicate 3584 (0 : Byte)).length ≤ 3584 ∧
    3584 < (List.replicate 3585 (0 : Byte)).length :=
  ⟨Nat.le_of_eq List.length_replicate, by rw [List.length_replicate]; omega⟩

/-- LoadAfterInitializeKeepsLowMemory, with a first word. -/
theorem witness_rom_word : ([0x12, 0x34] : List Byte).length ≤ 3584 ∧
    ([0x12, 0x34] : List Byte) = 0x12 :: 0x34 :: [] := by decide

/-- SetKeysWritesAllKeysOnly, second clause; HostCannotWriteProgramState. -/
theorem witness_other_transaction : ∃ t, transact .ackRedraw State.reset = .next t ∧
    (∀ k, Transaction.ackRedraw ≠ .setKeys k) ∧ Transaction.ackRedraw ≠ .powerOn ∧
    Transaction.ackRedraw ≠ .reset ∧ ∀ b, Transaction.ackRedraw ≠ .executeCycle b :=
  ⟨_, rfl, by simp, by simp, by simp, by simp⟩

/-- AcknowledgedRedrawMeansUnchangedScreen: one cycle after the acknowledgement, the flag still clear. -/
theorem witness_acknowledged : ∃ s u t : State, transact .ackRedraw s = .next u ∧
    Sys2Proof.core.run 1 u = .next t ∧ t.redraw = false := by
  obtain ⟨t, h, p⟩ := exists_next (Sys2Proof.core.run 1 (ackRedraw (State.reset.placeWord 0x6005)))
    (fun t => !t.redraw) (by decide)
  exact ⟨_, _, t, rfl, h, by simpa using p⟩

/-- CycleRepliesToneAndFaultIsReported, the clause on a halted core: the first cycle from reset, with the
sound timer running. -/
theorem witness_halting_cycle : ∃ t, transact (.executeCycle 0) (State.reset.setSt 2) = .next t ∧
    t.halted = true := by
  obtain ⟨t, h, p⟩ := exists_next (transact (.executeCycle 0) (State.reset.setSt 2)) (fun t => t.halted)
    (by decide)
  exact ⟨t, h, p⟩

/-- M10 as the host sees it: the tone of the cycle. -/
theorem test_reply_tone : holdsOn (transact (.executeCycle 0) ((State.reset.setV 1 3).placeWord 0xF118))
    (fun t => reply (.executeCycle 0) t = .tone true) = true := by decide

end Sys2Proof.Machine.Tests
end

/-!
The statements about the machine's state (10_state.md): what a step keeps, which instruction may write
which field, and the invariant.
-/

namespace Sys2Proof

/-- What the decoder gives is an instruction: the row count of a draw fits its field (30_encoding.md R73). -/
theorem wellFormed_of_decodeWord (w : Word) (i : Instr) (h : decodeWord w = some i) :
    i.wellFormed = true := by
  unfold decodeWord decodeSystem decodeAlu decodeKey decodeMisc at h
  repeat' split at h
  all_goals cases h
  all_goals simp only [Instr.wellFormed]
  exact decide_eq_true (minorOf w).isLt

end Sys2Proof

namespace Sys2Proof.Machine

/-! What a step can do: stay, take one fault, or complete one instruction -/

/-- The cycle of `s` dispatches `i`, and the own check of `i` raises nothing. -/
structure Completes (s : State) (i : Instr) : Prop where
  running : s.halted = false
  fetchable : s.pc.toNat ≤ 4094
  decoded : decodeWord s.fetchWord = some i
  unchecked : faultOfInstr s i = none

/-- The address in the record of an access beyond memory is beyond memory (60_exceptions.md R227). -/
theorem beyondAddress_ge (base : Word) : memSize ≤ (beyondAddress base).toNat := by
  have := base.isLt
  simp only [beyondAddress, memSize, BitVec.toNat_ofNat]
  omega

/-- The words of the four instructions that access memory through `I` are legal. -/
theorem decodeWord_encode_isSome (i : Instr)
    (h : (∃ x, i = .ldB x ∨ i = .ldMemVx x ∨ i = .ldVxMem x) ∨ ∃ x y n, i = .drw x y n) :
    (decodeWord (encode i)).isSome = true := by
  rcases h with ⟨x, rfl | rfl | rfl⟩ | ⟨x, y, n, rfl⟩ <;>
    simp [encode, decodeWord, decodeMisc]

/-- The record of an access beyond memory, for an instruction whose word is legal. -/
theorem record_wf_of_memFault (s : State) (last : Nat) (pc w : Word) (f : Cause × Detail)
    (hw : (decodeWord w).isSome = true) (h : memFault s last = some f) :
    FaultRecord.wf ⟨f.1, pc, some w, f.2⟩ = true := by
  obtain ⟨-, ⟨⟩⟩ := Option.ite_none_right_eq_some.1 h
  have := beyondAddress_ge s.index
  simpa [FaultRecord.wf, hw, beyondAddress] using this

/-- The record of a key number above 15, for an instruction of major opcode E. -/
theorem record_wf_of_keyFault (k : Byte) (pc w : Word) (f : Cause × Detail)
    (hw : majorOf w = 0xE) (h : keyFault k = some f) :
    FaultRecord.wf ⟨f.1, pc, some w, f.2⟩ = true := by
  obtain ⟨hk, ⟨⟩⟩ := Option.ite_none_right_eq_some.1 h
  simp only [FaultRecord.wf, hw, beq_self_eq_true, Bool.true_and, decide_eq_true_eq]
  omega

/-- A set bit outside the grid lies in the ranges of 60_exceptions.md R227, and outside. -/
theorem firstOffGrid_bounds (s : State) (vx vy : Byte) (n : Nat) (p : Nat × Nat) (hn : n < 16)
    (h : firstOffGrid s vx.toNat vy.toNat n = some p) :
    p.1 ≤ 262 ∧ p.2 ≤ 269 ∧ (64 ≤ p.1 ∨ 32 ≤ p.2) := by
  have hout := List.find?_some h
  have hmem := List.mem_of_find?_eq_some h
  simp only [List.mem_flatMap, List.mem_map, List.mem_range] at hmem
  obtain ⟨row, hrow, c, hc, rfl⟩ := hmem
  simp only [Bool.and_eq_true, Bool.or_eq_true, decide_eq_true_eq] at hout
  have := vx.isLt
  have := vy.isLt
  omega

/-- The fault of an instruction's own check leaves a record that the core can hold. -/
theorem record_wf_of_faultOfInstr (s : State) (i : Instr) (f : Cause × Detail) (pc : Word)
    (hi : i.wellFormed = true) (h : faultOfInstr s i = some f) :
    FaultRecord.wf ⟨f.1, pc, some (encode i), f.2⟩ = true := by
  cases i
  case ret =>
    obtain ⟨-, ⟨⟩⟩ := Option.ite_none_right_eq_some.1 h
    rfl
  case call nnn =>
    obtain ⟨-, ⟨⟩⟩ := Option.ite_none_right_eq_some.1 h
    simp [FaultRecord.wf, encode]
  case ldB x => exact record_wf_of_memFault s 2 pc _ f (decodeWord_encode_isSome _ (by simp)) h
  case ldMemVx x => exact record_wf_of_memFault s x.val pc _ f (decodeWord_encode_isSome _ (by simp)) h
  case ldVxMem x => exact record_wf_of_memFault s x.val pc _ f (decodeWord_encode_isSome _ (by simp)) h
  case skp x => exact record_wf_of_keyFault (s.getV x) pc _ f (majorOf_encodeXKK _ _ _) h
  case sknp x => exact record_wf_of_keyFault (s.getV x) pc _ f (majorOf_encodeXKK _ _ _) h
  case drw x y n =>
    have hn : n < 16 := of_decide_eq_true hi
    simp only [faultOfInstr] at h
    split at h
    · rename_i g hg
      obtain rfl := Option.some.inj h
      obtain ⟨-, hg⟩ := Option.ite_none_left_eq_some.1 hg
      exact record_wf_of_memFault s (n - 1) pc _ g (decodeWord_encode_isSome _ (by simp)) hg
    · obtain ⟨-, h⟩ := Option.ite_none_right_eq_some.1 h
      obtain ⟨p, hp, rfl⟩ := Option.map_eq_some_iff.1 h
      have hb := firstOffGrid_bounds s _ _ n p hn hp
      simp only [FaultRecord.wf, encode, majorOf_encodeXYN, BitVec.toNat_ofNat, fbWidth, fbHeight,
        beq_self_eq_true, Bool.true_and, Bool.and_eq_true, Bool.or_eq_true, decide_eq_true_eq]
      omega
  all_goals exact nomatch h

/-- A fault in dispatch, seen from the state before the cycle: the pc advance is undone. -/
theorem advancePc_raiseIn (s : State) (i : Instr) (c : Cause) (d : Detail) :
    s.advancePc.raiseIn i c d = s.raise c s.pc (some (encode i)) d := by
  simp [State.setPc, State.raise]

/-- Everything a step can do, the three kinds of fault taken together. -/
theorem step_stays_faults_or_completes (s t : State) (h : step s = .next t) :
    (s.halted = true ∧ t = s.setTone false) ∨
    (s.halted = false ∧ ∃ r : FaultRecord, r.wf = true ∧
      t = (s.raise r.cause r.pc r.opcode r.detail).setTone false) ∨
    ∃ i, Completes s i ∧ t = (effect i s.advancePc).tick := by
  rcases step_effect_cases s t h with hstay | ⟨hh, hp, rfl⟩ | ⟨hh, hp, hd, rfl⟩ |
    ⟨hh, hp, i, hd, ⟨f, hf, rfl⟩ | ⟨hf, rfl⟩⟩
  · exact .inl hstay
  · refine .inr (.inl ⟨hh, ⟨.outOfBounds, s.pc, none, .fetch (beyondAddress s.pc)⟩, ?_, rfl⟩)
    simpa [FaultRecord.wf, hp] using beyondAddress_ge s.pc
  · refine .inr (.inl ⟨hh, ⟨.unrecognizedOpcode, s.pc, some s.fetchWord, .none⟩, ?_, rfl⟩)
    simp [FaultRecord.wf, hd]
  · refine .inr (.inl ⟨hh, ⟨f.1, s.pc, some (encode i), f.2⟩, ?_, ?_⟩)
    · exact record_wf_of_faultOfInstr s i f s.pc (wellFormed_of_decodeWord _ _ hd) hf
    · rw [advancePc_raiseIn]
  · exact .inr (.inr ⟨i, ⟨hh, hp, hd, hf⟩, rfl⟩)

/-- A step that completes no instruction keeps everything but `halted`, the record and the tone. -/
theorem step_keeps_or_completes (s t : State) (h : step s = .next t) :
    (∃ hlt r, t = { s with halted := hlt, fault := r, tone := false }) ∨
    ∃ i, Completes s i ∧ t = (effect i s.advancePc).tick := by
  rcases step_stays_faults_or_completes s t h with ⟨-, rfl⟩ | ⟨-, r, -, rfl⟩ | hcomplete
  · exact .inl ⟨_, _, rfl⟩
  · exact .inl ⟨_, _, rfl⟩
  · exact .inr hcomplete

/-! Which instruction writes which field -/

/-- Only `00E0` and `Dxyn` touch the screen, and both set `redraw` (10_state.md R29, R32). -/
theorem effect_screen (i : Instr) (s : State) :
    ((effect i s).fb = s.fb ∧ (effect i s).redraw = s.redraw) ∨
    ((effect i s).redraw = true ∧ (i = .cls ∨ ∃ x y n, i = .drw x y n)) := by
  cases i
  case cls => exact .inr ⟨rfl, .inl rfl⟩
  case drw x y n => exact .inr ⟨rfl, .inr ⟨x, y, n, rfl⟩⟩
  case ldVxK x => left; simp only [effect]; split <;> simp
  all_goals left; simp [effect, apply_ite State.fb, apply_ite State.redraw]

/-- Only `Fx33` and `Fx55` write memory (20_memory.md R58). -/
theorem effect_mem (i : Instr) (s : State) :
    (effect i s).mem = s.mem ∨ ∃ x, i = .ldB x ∨ i = .ldMemVx x := by
  cases i
  case ldB x => exact .inr ⟨x, .inl rfl⟩
  case ldMemVx x => exact .inr ⟨x, .inr rfl⟩
  case ldVxK x => left; simp only [effect]; split <;> simp
  all_goals left; simp [effect, apply_ite State.mem]

/-- Only `2nnn` writes a stack entry (10_state.md R24). -/
theorem effect_stack (i : Instr) (s : State) :
    (effect i s).stack = s.stack ∨ ∃ nnn, i = .call nnn := by
  cases i
  case call nnn => exact .inr ⟨nnn, rfl⟩
  case ldVxK x => left; simp only [effect]; split <;> simp
  all_goals left; simp [effect, apply_ite State.stack]

/-- Only `2nnn` and `00EE` move the stack pointer (10_state.md R25). -/
theorem effect_sp (i : Instr) (s : State) :
    (effect i s).sp = s.sp ∨ i = .ret ∨ ∃ nnn, i = .call nnn := by
  cases i
  case ret => exact .inr (.inl rfl)
  case call nnn => exact .inr (.inr ⟨nnn, rfl⟩)
  case ldVxK x => left; simp only [effect]; split <;> simp
  all_goals left; simp [effect, apply_ite State.sp]

/-- Settles O19: faults keep both fields, and so does every effect. -/
theorem stepNeverWritesKeysOrParameters : Obligations.StepNeverWritesKeysOrParameters := by
  intro s t h
  rcases step_keeps_or_completes s t h with ⟨hlt, r, rfl⟩ | ⟨i, -, rfl⟩
  · exact ⟨rfl, rfl⟩
  · simp

/-- Settles O20, from what the effects do to the screen. -/
theorem onlyDisplayInstructionsChangeScreen : Obligations.OnlyDisplayInstructionsChangeScreen := by
  intro s t h hchange
  rcases step_keeps_or_completes s t h with ⟨hlt, r, rfl⟩ | ⟨i, hi, rfl⟩
  · simp at hchange
  · rcases effect_screen i s.advancePc with ⟨hfb, hredraw⟩ | ⟨hset, rfl | ⟨x, y, n, rfl⟩⟩
    · exact absurd hchange (not_or_intro (not_not_intro hfb) (not_not_intro hredraw))
    · exact ⟨hset, .inl hi.decoded⟩
    · exact ⟨hset, .inr ⟨x, y, n, hi.decoded⟩⟩

/-- Settles O21, from what the effects do to memory. -/
theorem onlyStoresChangeMemory : Obligations.OnlyStoresChangeMemory := by
  intro s t h hchange
  rcases step_keeps_or_completes s t h with ⟨hlt, r, rfl⟩ | ⟨i, hi, rfl⟩
  · exact absurd rfl hchange
  · rcases effect_mem i s.advancePc with hmem | ⟨x, rfl | rfl⟩
    · exact absurd hmem hchange
    · exact ⟨x, .inl hi.decoded⟩
    · exact ⟨x, .inr hi.decoded⟩

/-- Settles O22, from what the effects do to the stack and its pointer. -/
theorem onlyCallAndReturnMoveStack : Obligations.OnlyCallAndReturnMoveStack := by
  intro s t h
  rcases step_keeps_or_completes s t h with ⟨hlt, r, rfl⟩ | ⟨i, hi, rfl⟩
  · exact ⟨absurd rfl, absurd rfl⟩
  · constructor
    · intro hchange
      rcases effect_stack i s.advancePc with hstack | ⟨nnn, rfl⟩
      · exact absurd hstack hchange
      · exact ⟨nnn, hi.decoded⟩
    · intro hchange
      rcases effect_sp i s.advancePc with hsp | rfl | ⟨nnn, rfl⟩
      · exact absurd hsp hchange
      · exact .inl hi.decoded
      · exact .inr ⟨nnn, hi.decoded⟩

/-! The flag register (10_state.md R21) -/

/-- A write of another register leaves `VF`. -/
theorem getV_flagReg_setV (s : State) (r : Reg) (b : Byte) (h : decide (r = 15) = false) :
    (s.setV r b).getV flagReg = s.getV flagReg := by
  rw [State.getV_setV, if_neg (Ne.symm (of_decide_eq_false h))]

/-- The flag that was written is what `VF` holds. -/
theorem getV_flagReg_setFlag (s : State) (b : Bool) : (s.setFlag b).getV flagReg = flagByte b := by
  simp

/-- An instruction that writes no flag and does not name register 15 leaves `VF`. -/
theorem effect_flag_kept (i : Instr) (s : State) (hw : writesFlag i = false)
    (hn : namesFlagRegister i = false) : (effect i s).getV flagReg = s.getV flagReg := by
  cases i
  case addReg | sub | shr | subn | shl | drw => exact nomatch hw
  case ldImm | addImm | ldReg | orReg | andReg | xorReg | ldVxDt => exact getV_flagReg_setV _ _ _ hn
  case rnd => exact (getV_flagReg_setV _ _ _ hn).trans (s.dropRandom_getV _)
  case ldVxK x =>
    simp only [effect]
    split
    · exact getV_flagReg_setV _ _ _ hn
    · rfl
  case ldVxMem x =>
    have hx : ¬ flagReg ≤ x := fun h => of_decide_eq_false hn (Fin.last_le_iff.1 h)
    exact (s.getV_loadRegs x flagReg).trans (if_neg hx)
  all_goals simp [effect, apply_ite (State.getV · flagReg)]

/-- The six flag-writing instructions leave a flag in `VF`, whatever `x` is. -/
theorem effect_flag_written (i : Instr) (s : State) (hw : writesFlag i = true) :
    ∃ b, (effect i s).getV flagReg = flagByte b := by
  cases i
  case addReg | sub | shr | subn | shl | drw => exact ⟨_, getV_flagReg_setFlag _ _⟩
  all_goals exact nomatch hw

/-- A flag is 0 or 1. -/
theorem flagByte_zero_or_one (b : Bool) : flagByte b = 0 ∨ flagByte b = 1 := by
  cases b <;> simp [flagByte]

/-- Settles O23: a fault keeps `VF`, and the effects write it as listed. -/
theorem flagRegisterWrittenOnlyAsListed : Obligations.FlagRegisterWrittenOnlyAsListed := by
  intro i s t h
  rw [exec_eq] at h
  obtain rfl := Host.Outcome.next.inj h
  cases faultOfInstr s i with
  | some f => simp
  | none =>
    constructor
    · intro hchange
      by_contra! hnot
      exact hchange (effect_flag_kept i s (by simpa using hnot.1) (by simpa using hnot.2))
    · intro hw _
      obtain ⟨b, hb⟩ := effect_flag_written i s hw
      simp only [hb]
      exact flagByte_zero_or_one b

/-! How a completed cycle leaves pc (10_state.md R23) -/

@[simp] theorem wordOfAddr_toNat (nnn : Addr) : (wordOfAddr nnn).toNat = nnn.toNat := by
  have := nnn.isLt
  simp [wordOfAddr]
  omega

@[simp] theorem wordOfByte_toNat (b : Byte) : (wordOfByte b).toNat = b.toNat := by
  have := b.isLt
  simp [wordOfByte]
  omega

/-- The key wait ends exactly when some key is pressed (45_keypad_timers.md R182). -/
theorem lowestKey_isSome (s : State) : s.lowestKey.isSome = true ↔ ∃ k : Fin 16, s.key[k] = true := by
  simp only [State.lowestKey, List.find?_isSome, List.mem_range]
  constructor
  · rintro ⟨k, hk, hdown⟩
    exact ⟨⟨k, hk⟩, by simpa [State.keyDown, hk] using hdown⟩
  · rintro ⟨k, hdown⟩
    exact ⟨k.val, k.isLt, by simpa [State.keyDown] using hdown⟩

/-- The pc advance from a legal pc does not wrap. -/
theorem advancePc_toNat (s : State) (hp : s.pc.toNat ≤ 4094) :
    s.advancePc.pc.toNat = s.pc.toNat + 2 := by
  simp only [State.advancePc_eq, State.setPc_pc]
  bv_omega

/-- A skip on a condition, from a legal pc (41_control_flow.md R118). -/
theorem skip_if_toNat (s : State) (c : Prop) [Decidable c] (hp : s.pc.toNat ≤ 4094) :
    (if c then s.advancePc.skipNext else s.advancePc).pc.toNat = s.pc.toNat + if c then 4 else 2 := by
  split
  · simp only [State.advancePc_eq, State.skipNext_eq, State.setPc_pc]
    bv_omega
  · exact advancePc_toNat s hp

/-- A skip on the negation of a condition. -/
theorem skip_unless_toNat (s : State) (c : Prop) [Decidable c] (hp : s.pc.toNat ≤ 4094) :
    (if c then s.advancePc else s.advancePc.skipNext).pc.toNat = s.pc.toNat + if c then 2 else 4 := by
  have := skip_if_toNat s (¬ c) hp
  simpa only [ite_not] using this

/-- The pc that the effect of each instruction leaves, from a legal pc. -/
theorem effect_pc (i : Instr) (s : State) (hp : s.pc.toNat ≤ 4094) :
    (effect i s.advancePc).pc.toNat = pcAfter s i := by
  cases i
  case ret => rfl
  case jp nnn | call nnn => exact wordOfAddr_toNat nnn
  case jpV0 nnn =>
    have := nnn.isLt
    have := (s.getV 0).isLt
    simp [effect, pcAfter]
    omega
  case seImm | seReg | skp => exact skip_if_toNat s _ hp
  case sneImm | sneReg | sknp => exact skip_unless_toNat s _ hp
  case ldVxK x =>
    have hkey := lowestKey_isSome s
    have hlow : s.advancePc.lowestKey = s.lowestKey := rfl
    simp only [effect, pcAfter, hlow, ← hkey]
    cases s.lowestKey with
    | some k => exact advancePc_toNat s hp
    | none => simp
  case rnd x kk => exact (congrArg BitVec.toNat s.advancePc.dropRandom_pc).trans (advancePc_toNat s hp)
  case ldB | ldMemVx =>
    exact (congrArg BitVec.toNat (State.writeBytes_pc _ _ _)).trans (advancePc_toNat s hp)
  all_goals exact advancePc_toNat s hp

/-- Settles O14: the step completes, and the tick leaves pc. -/
theorem completedCycleLeavesPcAsListed : Obligations.CompletedCycleLeavesPcAsListed := by
  intro s t i hh hp hd h hrun
  rw [step_eq_of_decode s i hh hp hd] at h
  obtain rfl := Host.Outcome.next.inj h
  cases hf : faultOfInstr s i with
  | some f => simp [hf] at hrun
  | none => exact effect_pc i s hp

/-! The invariant -/

/-- The tone is no part of the invariant. -/
theorem inv_setTone (s : State) (b : Bool) (h : Inv s) : Inv (s.setTone b) := h

/-- The timers and the tone are no part of the invariant. -/
theorem inv_tick (s : State) (h : Inv s) : Inv s.tick := h

/-- A fault with a record the core can hold keeps the invariant. -/
theorem inv_raise (s : State) (r : FaultRecord) (hr : r.wf = true) (h : Inv s) :
    Inv (s.raise r.cause r.pc r.opcode r.detail) := by
  obtain ⟨hmem, hpc, hstack, hheld, hrec⟩ := h
  refine ⟨hmem, hpc, hstack, ?_, ?_⟩ <;> rw [State.raise_fault]
  · cases hh : s.halted
    · rfl
    · simp [← hheld, hh]
  · cases s.halted
    · simpa using hr
    · simpa using hrec

/-- An access that the fault table lets pass lies within memory. -/
theorem memFault_eq_none (s : State) (last : Nat) :
    memFault s last = none ↔ s.index.toNat + last ≤ 4095 := by
  simp [memFault]

/-- The effect of an instruction that its check lets pass keeps memory canonical. -/
theorem effect_mem_wf (i : Instr) (s : State) (hf : faultOfInstr s i = none)
    (h : Memory.wf s.cfg.font s.mem) : Memory.wf s.cfg.font (effect i s).mem := by
  rcases effect_mem i s with hmem | ⟨x, rfl | rfl⟩
  · rwa [hmem]
  · have := (memFault_eq_none s 2).1 hf
    refine State.wf_writeBytes _ s _ h ?_
    simp only [State.addrAt, decimalDigits, List.length_cons, List.length_nil, memSize]
    omega
  · have := (memFault_eq_none s x.val).1 hf
    refine State.wf_writeBytes _ s _ h ?_
    simp only [State.addrAt, State.regsUpTo, List.length_take, memSize]
    omega

/-- A call from a pc up to 4096 keeps the stack entries up to 4096; nothing else writes one. -/
theorem effect_stack_le (i : Instr) (s : State) (hp : s.pc.toNat ≤ 4096)
    (h : ∀ k : Fin 16, s.stack[k].toNat ≤ 4096) (k : Fin 16) : (effect i s).stack[k].toNat ≤ 4096 := by
  rcases effect_stack i s with hstack | ⟨nnn, rfl⟩
  · rw [hstack]; exact h k
  · have hpush : (effect (.call nnn) s).stack[k] = if s.sp.val = k.val then s.pc else s.stack[k] :=
      Vector.getElem_setIfInBounds _
    rw [hpush]
    split
    · exact hp
    · exact h k

/-- What a pop reads is a stack entry. -/
theorem top_le (s : State) (h : ∀ k : Fin 16, s.stack[k].toNat ≤ 4096) : s.top.toNat ≤ 4096 := by
  have hk : s.sp.val - 1 < 16 := by omega
  rw [State.top, Vector.getElem?_eq_getElem hk]
  exact h ⟨s.sp.val - 1, hk⟩

/-- The largest pc is that of `Bnnn` at 255 + 4095 (10_state.md R23). -/
theorem pcAfter_le (i : Instr) (s : State) (hp : s.pc.toNat ≤ 4094)
    (h : ∀ k : Fin 16, s.stack[k].toNat ≤ 4096) : pcAfter s i ≤ 4350 := by
  cases i <;> simp only [pcAfter]
  case ret => exact (top_le s h).trans (by decide)
  case jp nnn | call nnn =>
    have := nnn.isLt
    omega
  case jpV0 nnn =>
    have := nnn.isLt
    have := (s.getV 0).isLt
    omega
  case seImm | sneImm | seReg | sneReg | skp | sknp | ldVxK => split <;> omega
  all_goals omega

/-- A completed instruction keeps the invariant. -/
theorem inv_effect (i : Instr) (s : State) (hc : Completes s i) (h : Inv s) :
    Inv (effect i s.advancePc) := by
  obtain ⟨hmem, -, hstack, hheld, hrec⟩ := h
  have hadv : s.advancePc.pc.toNat ≤ 4096 := by
    have := advancePc_toNat s hc.fetchable
    have := hc.fetchable
    omega
  have hcheck : faultOfInstr s.advancePc i = none := (faultOfInstr_advancePc i s).trans hc.unchecked
  refine ⟨?_, ?_, effect_stack_le i s.advancePc hadv hstack, ?_, ?_⟩
  · rw [effect_cfg]
    exact effect_mem_wf i s.advancePc hcheck hmem
  · rw [effect_pc i s hc.fetchable]
    exact pcAfter_le i s hc.fetchable hstack
  · rw [effect_halted, effect_fault]
    exact hheld
  · rw [effect_fault]
    exact hrec

/-- Settles O15: the invariant is kept by a halted core's cycle, by a fault and by a completed cycle. -/
theorem stepKeepsInvariant : Obligations.StepKeepsInvariant := by
  intro s t hs h
  rcases step_stays_faults_or_completes s t h with ⟨-, rfl⟩ | ⟨-, r, hr, rfl⟩ | ⟨i, hc, rfl⟩
  · exact inv_setTone s _ hs
  · exact inv_setTone _ _ (inv_raise s r hr hs)
  · exact inv_tick _ (inv_effect i s hc hs)

end Sys2Proof.Machine

/-!
The statements about memory (20_memory.md): its canonical form, self-modifying code, and the bounds of an
access through `I`.
-/

namespace Sys2Proof.Machine

/-! The canonical form -/

/-- In a memory whose addresses rise, the cell that an address lists is the one that is found. -/
theorem Memory.lookup_eq_some_iff_mem (m : List Host.Cell) (hm : m.Pairwise (fun c d => c.1 < d.1))
    (c : Host.Cell) : m.lookup c.1 = some c.2 ↔ c ∈ m := by
  induction m with
  | nil => simp
  | cons d ds ih =>
    obtain ⟨hd, hds⟩ := List.pairwise_cons.1 hm
    rw [Memory.lookup_cons, List.mem_cons]
    by_cases hk : c.1 = d.1
    · have hnot : c ∉ ds := fun hc => absurd hk (hd c hc).ne'
      simp [hk, hnot, Prod.ext_iff, eq_comm]
    · have hne : c ≠ d := fun h => hk (congrArg Prod.fst h)
      simp [hk, hne, ih hds]

/-- The cells of a canonical memory are the bytes that differ from what an unlisted address reads as. -/
theorem Memory.mem_iff_read (font : Font) (m : List Host.Cell) (hm : Memory.wf font m) (c : Host.Cell) :
    c ∈ m ↔ Memory.read font m c.1 = c.2 ∧ c.2 ≠ Memory.unlisted font c.1 := by
  constructor
  · intro hc
    have hfound := (Memory.lookup_eq_some_iff_mem m hm.1 c).2 hc
    exact ⟨by simp [Memory.read, hfound], (hm.2 c hc).2⟩
  · rintro ⟨hread, hne⟩
    rw [← Memory.lookup_eq_some_iff_mem m hm.1 c]
    cases hl : m.lookup c.1 with
    | none => exact absurd (by simp [← hread, Memory.read, hl]) hne
    | some b => simp [← hread, Memory.read, hl]

/-- Settles O18: reads decide which cells are listed, and rising addresses decide their order. -/
theorem canonicalMemoriesReadAlikeAreEqual : Obligations.CanonicalMemoriesReadAlikeAreEqual := by
  intro font m m' hm hm' hread
  have : Std.Irrefl (fun c d : Host.Cell => c.1 < d.1) := ⟨fun c => lt_irrefl c.1⟩
  have : Std.Antisymm (fun c d : Host.Cell => c.1 < d.1) :=
    ⟨fun _ _ hcd hdc => absurd hcd hdc.asymm⟩
  refine hm.1.eq_of_mem_iff hm'.1 fun c => ?_
  rw [Memory.mem_iff_read font m hm, Memory.mem_iff_read font m' hm', hread]

/-! A store that the next fetch reads (20_memory.md R63) -/

/-- `V0` to `Vx` are `x + 1` bytes. -/
@[simp] theorem State.length_regsUpTo (s : State) (x : Reg) : (s.regsUpTo x).length = x.val + 1 := by
  simp only [State.regsUpTo, List.length_take, Vector.length_toList]
  omega

/-- The bytes that `Fx55` stores are the registers in ascending order (43_index_memory.md R154). -/
theorem State.getElem_regsUpTo (s : State) (x r : Reg) (h : r.val < (s.regsUpTo x).length) :
    (s.regsUpTo x)[r.val] = s.getV r := by
  simp [State.regsUpTo, State.getV]

/-- After the store the byte at `I + r` is register `r`. -/
theorem readMem_effect_ldMemVx (s : State) (x r : Reg) (h : r ≤ x) :
    (effect (.ldMemVx x) s).readMem (s.index.toNat + r.val) = s.getV r := by
  have hr : r.val < (s.regsUpTo x).length := by
    rw [State.length_regsUpTo]
    exact Nat.lt_succ_of_le h
  simp only [effect, State.addrAt, Nat.add_zero, State.readMem_writeBytes, Nat.add_sub_cancel_left]
  rw [dif_pos ⟨Nat.le_add_right _ _, hr⟩]
  exact s.getElem_regsUpTo x r hr

/-- The word that a fetch at address `a` reads. -/
theorem State.fetchWord_of_pc (s : State) (a : Nat) (h : s.pc.toNat = a) :
    s.fetchWord = wordOfBytes (s.readMem a) (s.readMem (a + 1)) := by
  rw [State.fetchWord, h, State.wordAt]

/-- Settles O26: the store completes, pc moves to the bytes it wrote, and the tick leaves both. -/
theorem storeIsSeenByNextFetch : Obligations.StoreIsSeenByNextFetch := by
  intro s t x k k' hh hp hd hbound hk hk' hx h
  have hcheck : faultOfInstr s (.ldMemVx x) = none := (memFault_eq_none s x.val).2 hbound
  rw [step_eq_of_decode s _ hh hp hd, hcheck] at h
  obtain rfl := Host.Outcome.next.inj h
  have hpc : (effect (.ldMemVx x) s.advancePc).pc.toNat = s.index.toNat + k.val :=
    (effect_pc (.ldMemVx x) s hp).trans hk
  have hhigh := readMem_effect_ldMemVx s.advancePc x k (Fin.le_def.2 (by omega))
  have hlow := readMem_effect_ldMemVx s.advancePc x k' (Fin.le_def.2 hx)
  rw [hk', ← Nat.add_assoc] at hlow
  exact (State.fetchWord_of_pc _ _ hpc).trans (congrArg₂ wordOfBytes hhigh hlow)

/-! The bounds of an access through `I` (20_memory.md R51, R53) -/

/-- What the fault table says of an access that passes 4095. -/
theorem memFault_eq_some (s : State) (last : Nat) (h : 4095 < s.index.toNat + last) :
    memFault s last = some (.outOfBounds, .mem (BitVec.ofNat 16 (max s.index.toNat 4096))) :=
  if_pos h

/-- An instruction whose own check raises a fault takes that fault and does nothing else. -/
theorem exec_faultedAt (i : Instr) (s : State) (c : Cause) (d : Detail)
    (h : faultOfInstr s i = some (c, d)) : ∃ t, exec i s = .next t ∧ FaultedAt i c d s t :=
  ⟨s.raiseIn i c d, by rw [exec_eq, h], s.faultedAt_raiseIn i c d⟩

/-- Settles O42: in each form the own check is the fault table's check of the highest address. -/
theorem accessBeyondMemoryFaults : Obligations.AccessBeyondMemoryFaults := by
  intro x y n s
  refine ⟨fun h => ?_, fun h => ?_, fun h => ?_, fun hn h => ?_⟩
  · exact exec_faultedAt _ s _ _ (memFault_eq_some s 2 (by omega))
  · exact exec_faultedAt _ s _ _ (memFault_eq_some s x.val h)
  · exact exec_faultedAt _ s _ _ (memFault_eq_some s x.val h)
  · have hbytes := memFault_eq_some s (n - 1) (by omega)
    exact exec_faultedAt _ s _ _ (by simp [faultOfInstr, hn.ne', hbytes])

end Sys2Proof.Machine

/-!
The statements about the encoding (30_encoding.md): decoder and encoder undo each other, the words are those
of the opcode map, and the patterns are disjoint.
-/

namespace Sys2Proof

/-! The encoder after the decoder: a word is built again from its major opcode and the other fields -/

theorem encodeNNN_of_major {w : Word} {major : Nibble} (h : majorOf w = major) :
    encodeNNN major (fieldNNN w) = w := h ▸ encodeNNN_fields w

theorem encodeXKK_of_major {w : Word} {major : Nibble} (h : majorOf w = major) :
    encodeXKK major (fieldX w) (fieldKK w) = w := h ▸ encodeXKK_fields w

theorem encodeXYN_of_major {w : Word} {major : Nibble} (h : majorOf w = major) :
    encodeXYN major (fieldX w) (fieldY w) (minorOf w) = w := h ▸ encodeXYN_fields w

theorem encode_of_decodeSystem (w : Word) (i : Instr) (hm : majorOf w = 0x0)
    (h : decodeSystem w = some i) : encode i = w := by
  have hw := encodeNNN_of_major hm
  unfold decodeSystem at h
  split at h <;> cases h
  all_goals
    rename_i hnnn
    rw [hnnn] at hw
    exact hw

theorem encode_of_decodeAlu (w : Word) (i : Instr) (hm : majorOf w = 0x8)
    (h : decodeAlu w = some i) : encode i = w := by
  have hw := encodeXYN_of_major hm
  unfold decodeAlu at h
  split at h <;> cases h
  all_goals
    rename_i hn
    rw [hn] at hw
    exact hw

theorem encode_of_decodeKey (w : Word) (i : Instr) (hm : majorOf w = 0xE)
    (h : decodeKey w = some i) : encode i = w := by
  have hw := encodeXKK_of_major hm
  unfold decodeKey at h
  split at h <;> cases h
  all_goals
    rename_i hkk
    rw [hkk] at hw
    exact hw

theorem encode_of_decodeMisc (w : Word) (i : Instr) (hm : majorOf w = 0xF)
    (h : decodeMisc w = some i) : encode i = w := by
  have hw := encodeXKK_of_major hm
  unfold decodeMisc at h
  split at h <;> cases h
  all_goals
    rename_i hkk
    rw [hkk] at hw
    exact hw

/-- The sixteen nibbles: what is left of a match on a nibble after the cases it names. -/
theorem nibble_mem (b : Nibble) : b ∈ [0, 1, 2, 3, 4, 5, 6, 7, 8, 9, 10, 11, 12, 13, 14, 15] := by
  decide +revert

/-- No bit of a legal word is lost in decoding (30_encoding.md R75, R78). -/
theorem encode_of_decodeWord (w : Word) (i : Instr) (h : decodeWord w = some i) : encode i = w := by
  unfold decodeWord at h
  split at h
  case h_1 hm => exact encode_of_decodeSystem w i hm h
  case h_9 hm => exact encode_of_decodeAlu w i hm h
  case h_15 hm => exact encode_of_decodeKey w i hm h
  case h_16 =>
    have hmem := nibble_mem (majorOf w)
    exact encode_of_decodeMisc w i (by simp_all) h
  case h_6 hm | h_10 hm =>
    obtain ⟨hn, ⟨⟩⟩ := Option.ite_none_right_eq_some.1 h
    simpa [encode, hn] using encodeXYN_of_major hm
  case h_14 hm =>
    cases h
    simpa [encode, fieldN] using encodeXYN_of_major hm
  case h_2 hm | h_3 hm | h_11 hm | h_12 hm =>
    cases h
    exact encodeNNN_of_major hm
  case h_4 hm | h_5 hm | h_7 hm | h_8 hm | h_13 hm =>
    cases h
    exact encodeXKK_of_major hm

/-! The decoder after the encoder -/

/-- The fields of a well-formed instruction's word select its row and are its operands. -/
theorem decodeWord_encode (i : Instr) (hi : i.wellFormed = true) : decodeWord (encode i) = some i := by
  cases i
  case cls | ret => rfl
  case drw x y n =>
    have hn : n < 16 := of_decide_eq_true hi
    simp [encode, decodeWord, fieldN, Nat.mod_eq_of_lt hn]
  all_goals simp [encode, decodeWord, decodeAlu, decodeKey, decodeMisc]

theorem decodeWord_eq_some_iff (w : Word) (i : Instr) :
    decodeWord w = some i ↔ i.wellFormed = true ∧ encode i = w :=
  ⟨fun h => ⟨wellFormed_of_decodeWord w i h, encode_of_decodeWord w i h⟩,
   fun ⟨hi, hw⟩ => hw ▸ decodeWord_encode i hi⟩

theorem decode_encodeBytes_append (i : Instr) (rest : List Byte) (hi : i.wellFormed = true) :
    decode (encodeBytes i ++ rest) = .instr i rest := by
  simp [encodeBytes, decode, decodeWord_encode i hi]

/-! The illegal words (30_encoding.md R77) -/

theorem decodeSystem_eq_none_iff (w : Word) : decodeSystem w = none ↔ fieldNNN w ∉ [0x0E0, 0x0EE] := by
  unfold decodeSystem
  split <;> simp_all

theorem decodeAlu_eq_none_iff (w : Word) :
    decodeAlu w = none ↔ minorOf w ∈ [0x8, 0x9, 0xA, 0xB, 0xC, 0xD, 0xF] := by
  unfold decodeAlu
  have hmem := nibble_mem (minorOf w)
  split <;> simp_all

theorem decodeKey_eq_none_iff (w : Word) : decodeKey w = none ↔ fieldKK w ∉ [0x9E, 0xA1] := by
  unfold decodeKey
  split <;> simp_all

theorem decodeMisc_eq_none_iff (w : Word) : decodeMisc w = none ↔
    fieldKK w ∉ [0x07, 0x0A, 0x15, 0x18, 0x1E, 0x29, 0x33, 0x55, 0x65] := by
  unfold decodeMisc
  split <;> simp_all

/-- Two words of one major opcode are equal when their low twelve bits are. -/
theorem eq_iff_fieldNNN_eq (w u : Word) (h : majorOf w = majorOf u) :
    w = u ↔ fieldNNN w = fieldNNN u := by
  refine ⟨congrArg fieldNNN, fun hnnn => ?_⟩
  rw [← encodeNNN_fields w, h, hnnn, encodeNNN_fields]

/-! What a masked match says of the fields that its mask covers -/

theorem extractLsb'_of_masked {w mask m : Word} {start len : Nat}
    (hmask : mask.extractLsb' start len = BitVec.allOnes len) (h : w &&& mask = m) :
    w.extractLsb' start len = m.extractLsb' start len := by
  rw [← h, BitVec.extractLsb'_and, hmask, BitVec.and_allOnes]

theorem majorOf_of_masked {w mask m : Word} (hmask : majorOf mask = BitVec.allOnes 4)
    (h : w &&& mask = m) : majorOf w = majorOf m := extractLsb'_of_masked hmask h

theorem minorOf_of_masked {w mask m : Word} (hmask : minorOf mask = BitVec.allOnes 4)
    (h : w &&& mask = m) : minorOf w = minorOf m := extractLsb'_of_masked hmask h

theorem fieldKK_of_masked {w mask m : Word} (hmask : fieldKK mask = BitVec.allOnes 8)
    (h : w &&& mask = m) : fieldKK w = fieldKK m := extractLsb'_of_masked hmask h

end Sys2Proof

namespace Sys2Proof.Machine

/-- The table of R77: in each major opcode, the words that its second field sends nowhere. -/
theorem decodeWord_eq_none_iff (w : Word) : decodeWord w = none ↔ illegalByTable w = true := by
  unfold decodeWord illegalByTable
  split
  case h_1 hm =>
    have hcls : w = 0x00E0#16 ↔ fieldNNN w = 0x0E0#12 := eq_iff_fieldNNN_eq w 0x00E0 hm
    have hret : w = 0x00EE#16 ↔ fieldNNN w = 0x0EE#12 := eq_iff_fieldNNN_eq w 0x00EE hm
    simp [hm, decodeSystem_eq_none_iff, hcls, hret]
  case h_9 hm => simp [hm, decodeAlu_eq_none_iff]
  case h_15 hm => simp [hm, decodeKey_eq_none_iff]
  case h_16 =>
    have hmem := nibble_mem (majorOf w)
    have hm : majorOf w = 0xF := by simp_all
    simp [hm, decodeMisc_eq_none_iff]
  all_goals rename_i hm; simp [hm]

/-- The word of an instruction is the number that its row of the map gives (30_encoding.md R75). -/
theorem encode_toNat (i : Instr) (hi : i.wellFormed = true) : (encode i).toNat = wordByMap i := by
  cases i
  case cls | ret => rfl
  case drw x y n =>
    have hn : n < 16 := of_decide_eq_true hi
    simp [encode, wordByMap, encodeXYN_toNat, Nat.mod_eq_of_lt hn]
  all_goals
    simp only [encode, wordByMap, encodeNNN_toNat, encodeXKK_toNat, encodeXYN_toNat,
      BitVec.ofNat_eq_ofNat, BitVec.toNat_ofNat] <;> omega

/-! The rows of the opcode map -/

/-- Below, a word meets a row when the row's mask leaves of it the row's match value (30_encoding.md R74). -/
theorem encode_meets_rowOf (i : Instr) :
    ∃ row, opcodeRows[rowOf i]? = some row ∧ encode i &&& row.2 = row.1 := by
  cases i
  case cls | ret => exact ⟨_, rfl, rfl⟩
  case jp | call | ldI | jpV0 => exact ⟨_, rfl, (encodeNNN_masked _ _).trans rfl⟩
  case seImm | sneImm | ldImm | addImm | rnd => exact ⟨_, rfl, (encodeXKK_masked _ _ _).trans rfl⟩
  case drw => exact ⟨_, rfl, (encodeXYN_masked _ _ _ _).trans rfl⟩
  case seReg | sneReg | ldReg | orReg | andReg | xorReg | addReg | sub | shr | subn | shl =>
    exact ⟨_, rfl, (encodeXY_masked _ _ _ _).trans rfl⟩
  all_goals exact ⟨_, rfl, (encodeX_masked _ _ _).trans rfl⟩

/-- The mask of a row covers the fields that decoding looks at on the way to the row's instruction. -/
theorem map_rowOf_of_meets (w : Word) (k : Nat) (row : Word × Word) (hk : opcodeRows[k]? = some row)
    (hw : w &&& row.2 = row.1) : (decodeWord w).map rowOf = some k := by
  match k, hk with
  | 0, hk | 1, hk =>
    cases hk
    rw [show w = _ from BitVec.and_allOnes.symm.trans hw]
    rfl
  | 2, hk | 3, hk | 4, hk | 5, hk | 8, hk | 9, hk | 19, hk | 20, hk | 21, hk | 22, hk =>
    cases hk
    unfold decodeWord
    rw [majorOf_of_masked rfl hw]
    rfl
  | 6, hk | 7, hk | 10, hk | 11, hk | 12, hk | 13, hk | 14, hk | 15, hk | 16, hk | 17, hk
  | 18, hk =>
    cases hk
    unfold decodeWord decodeAlu
    rw [majorOf_of_masked rfl hw, minorOf_of_masked rfl hw]
    rfl
  | 23, hk | 24, hk | 25, hk | 26, hk | 27, hk | 28, hk | 29, hk | 30, hk | 31, hk | 32, hk
  | 33, hk =>
    cases hk
    unfold decodeWord decodeKey decodeMisc
    rw [majorOf_of_masked rfl hw, fieldKK_of_masked rfl hw]
    rfl
  | _ + 34, hk => cases hk

/-- The instruction that a word decodes to says which row the word meets. -/
theorem meets_row_iff (w : Word) (k : Nat) (row : Word × Word) (hk : opcodeRows[k]? = some row) :
    w &&& row.2 = row.1 ↔ ∃ i, decodeWord w = some i ∧ rowOf i = k := by
  constructor
  · exact fun hw => Option.map_eq_some_iff.1 (map_rowOf_of_meets w k row hk hw)
  · rintro ⟨i, hi, rfl⟩
    obtain ⟨row', hk', hw⟩ := encode_meets_rowOf i
    obtain rfl : row = row' := Option.some.inj (hk.symm.trans hk')
    rwa [encode_of_decodeWord w i hi] at hw

/-- A legal word meets one row of the map, that of its instruction, and no other. -/
theorem countP_meets_of_legal (w : Word) (i : Instr) (hi : decodeWord w = some i) :
    opcodeRows.countP (fun row => w &&& row.2 == row.1) = 1 := by
  obtain ⟨row₀, hrow₀, hmeets⟩ := encode_meets_rowOf i
  rw [encode_of_decodeWord w i hi] at hmeets
  have honly : ∀ row ∈ opcodeRows, (w &&& row.2 == row.1) = true ↔ (row == row₀) = true := by
    intro row hrow
    obtain ⟨k, hk⟩ := List.mem_iff_getElem?.1 hrow
    rw [beq_iff_eq, beq_iff_eq]
    constructor
    · intro hw
      obtain ⟨j, hj, rfl⟩ := (meets_row_iff w k row hk).1 hw
      obtain rfl : i = j := Option.some.inj (hi.symm.trans hj)
      exact Option.some.inj (hk.symm.trans hrow₀)
    · rintro rfl
      exact hmeets
  rw [List.countP_congr honly]
  exact List.count_eq_one_of_mem (by decide) (List.mem_of_getElem? hrow₀)

/-- An illegal word meets no row of the map. -/
theorem countP_meets_of_illegal (w : Word) (hw : decodeWord w = none) :
    opcodeRows.countP (fun row => w &&& row.2 == row.1) = 0 := by
  rw [List.countP_eq_zero]
  intro row hrow hmeets
  obtain ⟨k, hk⟩ := List.mem_iff_getElem?.1 hrow
  obtain ⟨i, hi, -⟩ := (meets_row_iff w k row hk).1 (beq_iff_eq.1 hmeets)
  exact nomatch hw.symm.trans hi

/-! The obligations -/

/-- Settles O1: by the fields of an encoded word. -/
theorem decodeOfEncodeGivesInstruction : Obligations.DecodeOfEncodeGivesInstruction :=
  fun i rest hi => ⟨decodeWord_encode i hi, decode_encodeBytes_append i rest hi⟩

/-- Settles O2: a word is built again from its fields. -/
theorem encodeOfDecodeGivesWord : Obligations.EncodeOfDecodeGivesWord :=
  fun w i => (decodeWord_eq_some_iff w i).1

/-- Settles O3: a word meets the row of the instruction it decodes to. -/
theorem legalWordMatchesExactlyOnePattern : Obligations.LegalWordMatchesExactlyOnePattern := by
  refine ⟨fun w => ?_, rfl, meets_row_iff⟩
  cases hw : decodeWord w with
  | none => exact countP_meets_of_illegal w hw
  | some i => exact countP_meets_of_legal w i hw

/-- Settles O59: decoding inverts encoding, and an encoded word is the map's number. -/
theorem everyWordIsThatOfTheOpcodeMap : Obligations.EveryWordIsThatOfTheOpcodeMap := by
  refine ⟨fun w i => ?_, encode_toNat⟩
  rw [decodeWord_eq_some_iff]
  refine and_congr_right fun hi => ?_
  rw [← encode_toNat i hi, BitVec.toNat_inj, eq_comm]

/-- Settles O4: by the major opcode, and in each by the field that decides. -/
theorem illegalWordsAreThoseListed : Obligations.IllegalWordsAreThoseListed :=
  decodeWord_eq_none_iff

/-- Settles O5: by evaluating the decoder. -/
theorem sampleWordsDecodeAsListed : Obligations.SampleWordsDecodeAsListed := by
  unfold Obligations.SampleWordsDecodeAsListed
  decide

end Sys2Proof.Machine

/-!
The statements about the cycle (40_cycle_and_dispatch.md): its order, its faults, the tick, and what it makes
of the random byte.
-/

namespace Sys2Proof.Machine

/-! The step, case by case -/

/-- The cycle of a pc above 4094 takes the fetch fault. -/
theorem step_of_unfetchable (s : State) (hh : s.halted = false) (hp : 4094 < s.pc.toNat) :
    step s = .next (s.raiseFetch.setTone false) := by
  have hf : s.fetchable = false := by simpa [State.fetchable] using hp
  simp only [step, cycle, hh, hf, Bool.false_eq_true, if_false]
  exact congrArg Host.Outcome.next (State.endCycle_of_halted _ rfl)

/-- The cycle of an illegal word takes its fault. -/
theorem step_of_illegal (s : State) (hh : s.halted = false) (hp : s.pc.toNat ≤ 4094)
    (hd : decodeWord s.fetchWord = none) :
    step s = .next ((s.raiseIllegal s.fetchWord).setTone false) := by
  have hf : s.fetchable = true := by simpa [State.fetchable] using hp
  simp only [step, cycle, hh, hf, hd, if_true, Bool.false_eq_true, if_false]
  exact congrArg Host.Outcome.next (State.endCycle_of_halted _ rfl)

/-- The cycle of an instruction whose own check raises nothing is its effect and the tick. -/
theorem step_of_completes (s : State) (i : Instr) (h : Completes s i) :
    step s = .next (effect i s.advancePc).tick := by
  rw [step_eq_of_decode s i h.running h.fetchable h.decoded, h.unchecked]

/-- A fault of a core that runs sets `halted` and writes the record (60_exceptions.md R226). -/
theorem State.raise_of_running (s : State) (hh : s.halted = false) (c : Cause) (p : Word)
    (o : Option Word) (d : Detail) :
    s.raise c p o d = { s with halted := true, fault := some ⟨c, p, o, d⟩ } := by
  simp [State.raise, hh]

/-- A run goes on from the state that its first step answers. -/
theorem run_succ_of_step {s t : State} (h : step s = .next t) (k : Nat) :
    core.run (k + 1) s = core.run k t := by
  have hcore : core.step s = .next t := h
  simp only [Host.Core.run, hcore]

/-- A run of a halted core is one step, however long it is. -/
theorem run_of_halted (n : Nat) : ∀ s : State, s.halted = true →
    core.run (n + 1) s = .next (s.setTone false) := by
  induction n with
  | zero => exact fun s h => run_succ_of_step (step_of_halted s h) 0
  | succ n ih =>
    intro s h
    rw [run_succ_of_step (step_of_halted s h)]
    exact ih (s.setTone false) h

/-- Two bytes that decode to one instruction are the two of its word (30_encoding.md R70). -/
theorem decodeWord_of_decode {hi lo : Byte} {i : Instr} (h : decode [hi, lo] = .instr i []) :
    decodeWord (wordOfBytes hi lo) = some i := by
  simp only [decode] at h
  split at h
  · obtain ⟨rfl, -⟩ := Decoded.instr.inj h
    assumption
  · exact nomatch h

/-! The tick -/

/-- A timer counts down to zero and stays there (40_cycle_and_dispatch.md R96). -/
theorem countDown_toNat (b : Byte) : (countDown b).toNat = b.toNat - 1 := by
  unfold countDown
  split <;> bv_omega

/-- The tick finds the delay timer that the effect leaves: only `Fx15` writes it (10_state.md R26). -/
theorem effect_dt (i : Instr) (s : State) : (effect i s).dt = dtAtTick s i := by
  cases i
  case ldDtVx x => rfl
  case ldVxK x => simp only [effect]; split <;> rfl
  all_goals simp [effect, dtAtTick, apply_ite State.dt]

/-- The tick finds the sound timer that the effect leaves: only `Fx18` writes it (10_state.md R27). -/
theorem effect_st (i : Instr) (s : State) : (effect i s).st = stAtTick s i := by
  cases i
  case ldStVx x => rfl
  case ldVxK x => simp only [effect]; split <;> rfl
  all_goals simp [effect, stAtTick, apply_ite State.st]

/-- The delay timer that the tick finds does not depend on the pc advance. -/
theorem dtAtTick_advancePc (s : State) (i : Instr) : dtAtTick s.advancePc i = dtAtTick s i := by
  cases i <;> rfl

/-- The sound timer that the tick finds does not depend on the pc advance. -/
theorem stAtTick_advancePc (s : State) (i : Instr) : stAtTick s.advancePc i = stAtTick s i := by
  cases i <;> rfl

/-! The random input (46_host_interface.md R206) -/

/-- The state with other bytes ready in the host's generator. -/
def State.withGenerator (s : State) (bytes : List Byte) (n : Nat) : State :=
  { s with random := bytes, draws := n }

/-- No check looks at the generator. -/
theorem faultOfInstr_withGenerator (i : Instr) (s : State) (bytes : List Byte) (n : Nat) :
    faultOfInstr (s.withGenerator bytes n) i = faultOfInstr s i := by
  cases i <;> rfl

/-- A choice between two states commutes with a change of the generator. -/
theorem State.ite_withGenerator (c : Prop) [Decidable c] (s t : State) (bytes : List Byte) (n : Nat) :
    (if c then s else t).withGenerator bytes n =
      if c then s.withGenerator bytes n else t.withGenerator bytes n :=
  apply_ite (State.withGenerator · bytes n) c s t

/-- Whether a cycle completes an instruction does not depend on the generator. -/
theorem completes_withGenerator (s : State) (i : Instr) (bytes : List Byte) (n : Nat) :
    Completes (s.withGenerator bytes n) i ↔ Completes s i := by
  have hcheck := faultOfInstr_withGenerator i s bytes n
  constructor
  · exact fun h => ⟨h.running, h.fetchable, h.decoded, hcheck ▸ h.unchecked⟩
  · exact fun h => ⟨h.running, h.fetchable, h.decoded, hcheck ▸ h.unchecked⟩

/-- Memory writes commute with a change of the generator. -/
theorem State.writeBytes_withGenerator (bs : List Byte) : ∀ (s : State) (a : Nat) (bytes : List Byte)
    (n : Nat), (s.withGenerator bytes n).writeBytes a bs = (s.writeBytes a bs).withGenerator bytes n := by
  induction bs with
  | nil => exact fun _ _ _ _ => rfl
  | cons b bs ih => exact fun s a => ih (s.writeMem a b) (a + 1)

/-- Every effect but that of `Cxkk` commutes with a change of the generator. -/
theorem effect_withGenerator (i : Instr) (s : State) (bytes : List Byte) (n : Nat)
    (hi : ∀ x kk, i ≠ .rnd x kk) :
    effect i (s.withGenerator bytes n) = (effect i s).withGenerator bytes n := by
  cases i
  case rnd x kk => exact absurd rfl (hi x kk)
  case seImm | sneImm | seReg | sneReg | skp | sknp =>
    simp only [effect, State.ite_withGenerator]
    rfl
  case ldVxK x =>
    have hlow : (s.withGenerator bytes n).lowestKey = s.lowestKey := rfl
    simp only [effect, hlow]
    cases s.lowestKey <;> rfl
  case ldB | ldMemVx => exact State.writeBytes_withGenerator _ s _ bytes n
  all_goals rfl

/-- `Cxkk` uses the first byte the generator has ready (42_alu.md R141). -/
theorem effect_rnd_withGenerator (x : Reg) (kk b : Byte) (s : State) (bytes : List Byte) (n : Nat) :
    effect (.rnd x kk) (s.withGenerator (b :: bytes) n) =
      (s.setV x (b &&& kk)).withGenerator bytes n := rfl

/-- The step of a core with another generator, where the cycle completes no `Cxkk`. -/
theorem step_withGenerator (s : State) (bytes : List Byte) (n : Nat)
    (hrnd : ∀ x kk, ¬ Completes s (.rnd x kk)) (t : State) (h : step s = .next t) :
    step (s.withGenerator bytes n) = .next (t.withGenerator bytes n) := by
  rcases step_effect_cases s t h with ⟨hh, rfl⟩ | ⟨hh, hp, rfl⟩ | ⟨hh, hp, hd, rfl⟩ |
    ⟨hh, hp, i, hd, ⟨f, hf, rfl⟩ | ⟨hf, rfl⟩⟩
  · exact step_of_halted (s.withGenerator bytes n) hh
  · exact step_of_unfetchable (s.withGenerator bytes n) hh hp
  · exact step_of_illegal (s.withGenerator bytes n) hh hp hd
  · rw [step_eq_of_decode (s.withGenerator bytes n) i hh hp hd, faultOfInstr_withGenerator, hf]
    rfl
  · have hi : ∀ x kk, i ≠ .rnd x kk := by
      rintro x kk rfl
      exact hrnd x kk ⟨hh, hp, hd, hf⟩
    rw [step_of_completes _ i ((completes_withGenerator s i bytes n).2 ⟨hh, hp, hd, hf⟩)]
    exact congrArg (Host.Outcome.next ∘ State.tick) (effect_withGenerator i s.advancePc bytes n hi)

/-- `execute_cycle` is the step where the cycle completes no `Cxkk`. -/
theorem executeCycle_of_step (s t : State) (rnd : Byte) (hrnd : ∀ x kk, ¬ Completes s (.rnd x kk))
    (h : step s = .next t) : executeCycle rnd s = .next (t.withGenerator s.random s.draws) := by
  have hsupplied := step_withGenerator s [rnd] s.draws hrnd t h
  exact congrArg (restoreRandom s.random s.draws) hsupplied

/-- `execute_cycle` of `Cxkk` uses the byte it is given and leaves the generator alone. -/
theorem executeCycle_of_completes_rnd (s : State) (b kk : Byte) (x : Reg)
    (h : Completes s (.rnd x kk)) :
    executeCycle b s = .next (s.advancePc.setV x (b &&& kk)).tick := by
  have hstep := step_of_completes _ _ ((completes_withGenerator s _ [b] s.draws).2 h)
  have heffect := effect_rnd_withGenerator x kk b s.advancePc [] s.draws
  have hsupplied := hstep.trans (congrArg (Host.Outcome.next ∘ State.tick) heffect)
  exact congrArg (restoreRandom s.random s.draws) hsupplied

/-- A step that ignores the generator leaves it alone. -/
theorem step_keeps_generator (s t : State) (hrnd : ∀ x kk, ¬ Completes s (.rnd x kk))
    (h : step s = .next t) : t.withGenerator s.random s.draws = t :=
  (Host.Outcome.next.inj (h.symm.trans (step_withGenerator s s.random s.draws hrnd t h))).symm

/-! The obligations -/

/-- Settles O12: dispatch faults or has its effect, and so do the three other branches of a cycle. -/
theorem dispatchAndStepAreTotal : Obligations.DispatchAndStepAreTotal := by
  refine ⟨fun i s => ⟨_, exec_eq i s⟩, fun s => ?_⟩
  cases hh : s.halted with
  | true => exact ⟨_, step_of_halted s hh⟩
  | false =>
    rcases Nat.lt_or_ge 4094 s.pc.toNat with hp | hp
    · exact ⟨_, step_of_unfetchable s hh hp⟩
    · cases hd : decodeWord s.fetchWord with
      | none => exact ⟨_, step_of_illegal s hh hp hd⟩
      | some i => exact ⟨_, step_eq_of_decode s i hh hp hd⟩

/-- Settles O6: the bytes decode as the fetched word does, and the end of a cycle is the tick or no tone. -/
theorem stepRunsDecodedInstruction : Obligations.StepRunsDecodedInstruction :=
  fun s t i hh hp hd hx => step_of_decode s t i hh hp (decodeWord_of_decode hd) hx

/-- Settles O7: the high byte stands first in the word, and a pc above 4094 takes the fetch fault. -/
theorem fetchReadsBigEndianWordOrFaults : Obligations.FetchReadsBigEndianWordOrFaults := by
  refine fun s => ⟨fun _ => toNat_append_field _ _, fun hh hp => ?_⟩
  rw [step_of_unfetchable s hh hp, State.raiseFetch_eq, s.raise_of_running hh]
  rfl

/-- Settles O9: the first step clears the tone, and the others find it cleared. -/
theorem haltedCoreDoesNothing : Obligations.HaltedCoreDoesNothing := by
  refine fun s n b h => ⟨run_of_halted n s h, ?_⟩
  exact executeCycle_of_step s _ b (fun _ _ hc => absurd h (by simp [hc.running])) (step_of_halted s h)

/-- Settles O10: each of the three kinds of fault writes a record at the pc before the cycle. -/
theorem faultingCycleIsPrecise : Obligations.FaultingCycleIsPrecise := by
  intro s t hh h hhalt
  rcases step_effect_cases s t h with ⟨hstay, -⟩ | ⟨-, hp, rfl⟩ | ⟨-, hp, -, rfl⟩ |
    ⟨-, hp, i, hd, ⟨f, -, rfl⟩ | ⟨-, rfl⟩⟩
  · exact absurd hstay (by simp [hh])
  · rw [State.raiseFetch_eq, s.raise_of_running hh]
    exact ⟨_, rfl, rfl, (if_neg (Nat.not_le.2 hp)).symm⟩
  · rw [State.raiseIllegal_eq, s.raise_of_running hh]
    exact ⟨_, rfl, rfl, (if_pos hp).symm⟩
  · rw [advancePc_raiseIn, s.raise_of_running hh, encode_of_decodeWord _ _ hd]
    exact ⟨_, rfl, rfl, (if_pos hp).symm⟩
  · exact absurd hhalt (by simp [hh])

/-- Settles O13: the cycle completes, and the tick counts down what the effect leaves. -/
theorem completedCycleTicksBothTimers : Obligations.CompletedCycleTicksBothTimers := by
  intro s t i hh hp hd h hrun
  rw [step_eq_of_decode s i hh hp hd] at h
  obtain rfl := Host.Outcome.next.inj h
  cases hf : faultOfInstr s i with
  | some f => simp [hf] at hrun
  | none =>
    have hdt := (effect_dt i s.advancePc).trans (dtAtTick_advancePc s i)
    have hst := (effect_st i s.advancePc).trans (stAtTick_advancePc s i)
    simp only [State.tick_dt, State.tick_st, State.tick_tone, hdt, hst, countDown_toNat, true_and]
    exact decide_eq_true_iff.trans (BitVec.pos_iff_ne_zero _)

/-- Settles O24: a cycle uses the generator's byte if it completes a `Cxkk`, and then the byte given to it. -/
theorem onlyRandomInstructionDependsOnGenerator :
    Obligations.OnlyRandomInstructionDependsOnGenerator := by
  constructor
  · intro s t rnd bytes n h
    by_cases hrnd : ∃ x kk, Completes s (.rnd x kk)
    · obtain ⟨x, kk, hc⟩ := hrnd
      rw [executeCycle_of_completes_rnd s rnd kk x hc] at h
      obtain rfl := Host.Outcome.next.inj h
      exact executeCycle_of_completes_rnd _ rnd kk x ((completes_withGenerator s _ bytes n).2 hc)
    · simp only [not_exists] at hrnd
      obtain ⟨u, hu⟩ := dispatchAndStepAreTotal.2 s
      rw [executeCycle_of_step s u rnd hrnd hu] at h
      obtain rfl := Host.Outcome.next.inj h
      refine executeCycle_of_step (s.withGenerator bytes n) (u.withGenerator bytes n) rnd ?_
        (step_withGenerator s bytes n hrnd u hu)
      simpa only [completes_withGenerator] using hrnd
  · intro s t bytes n hword h
    have hrnd : ∀ x kk, ¬ Completes s (.rnd x kk) := fun x kk hc => hword x kk hc.decoded
    refine ⟨step_withGenerator s bytes n hrnd t h, fun rnd => ?_⟩
    rw [executeCycle_of_step s t rnd hrnd h, step_keeps_generator s t hrnd h]

/-- Settles O25: the registers, pc and the generator after `execute_cycle` of a `Cxkk`. -/
theorem executeCycleSuppliesRandomByte : Obligations.ExecuteCycleSuppliesRandomByte := by
  intro s b kk x hh hp hd
  refine ⟨_, executeCycle_of_completes_rnd s b kk x ⟨hh, hp, hd, rfl⟩, ?_, rfl, fun q hq => ?_, rfl, rfl⟩
  · simp
  · simp [hq]

end Sys2Proof.Machine

/-!
The statements about control transfer (41_control_flow.md): the jumps, the call and the return with their
faults, and the skips that compare registers.
-/

namespace Sys2Proof.Machine

/-! What a jump, a pop and a push leave unchanged -/

/-- A write of pc changes nothing else. -/
theorem frame_setPc (s : State) (w : Word) : Frame (fun p => p = .pc) s (s.setPc w) := by
  intro p hp
  cases p
  case pc => exact absurd rfl hp
  all_goals rfl

/-- A pop moves the pointer and pc, and leaves every stack entry (10_state.md R24). -/
theorem frame_popPc (s : State) : Frame (fun p => p = .sp ∨ p = .pc) s s.popPc := by
  intro p hp
  cases p
  case sp => exact absurd (.inl rfl) hp
  case pc => exact absurd (.inr rfl) hp
  all_goals rfl

/-- A push writes the entry at the pointer, and moves the pointer. -/
theorem frame_push (s : State) (w : Word) (k : Fin 16) (hk : s.sp.val = k.val) :
    Frame (fun p => p = .stack k ∨ p = .sp) s (s.push w) := by
  intro p hp
  cases p
  case sp => exact absurd (.inr rfl) hp
  case stack j =>
    have hne : s.sp.val ≠ j.val := fun h => hp (.inl (congrArg Part.stack (Fin.ext (h.symm.trans hk))))
    exact Vector.getElem_setIfInBounds_ne j.isLt hne
  all_goals rfl

/-- Changes made one after the other change at most the parts of both. -/
theorem Frame.trans {c d : Part → Prop} {s t u : State} (hst : Frame c s t) (htu : Frame d t u) :
    Frame (fun p => c p ∨ d p) s u := by
  intro p hp
  obtain ⟨hc, hd⟩ := not_or.1 hp
  have h1 := hst p hc
  have h2 := htu p hd
  cases p <;> exact Eq.trans h2 h1

/-! The stack (10_state.md R24, R25) -/

/-- A pop reads the entry below the pointer. -/
theorem top_eq_stack (s : State) (k : Fin 16) (hk : s.sp.val = k.val + 1) : s.top = s.stack[k] := by
  simp [State.top, hk]

/-- A push stores its word in the entry at the old pointer. -/
theorem stack_push (s : State) (w : Word) (k : Fin 16) (hk : s.sp.val = k.val) :
    (s.push w).stack[k] = w := by
  simp [hk]

/-! The skips (41_control_flow.md R118) -/

/-- A skip whose test decides `c` adds 2 to pc iff `c` holds, and changes nothing else. -/
theorem skipIf_spec (s : State) (b : Bool) (c : Prop) [Decidable c] (h : b = true ↔ c) :
    ∃ t, skipIf b s = .next t ∧ Frame (fun p => p = .pc) s t ∧ t.pc = if c then s.pc + 2 else s.pc := by
  by_cases hc : c
  · obtain rfl := h.2 hc
    exact ⟨s.skipNext, rfl, frame_setPc s _, (if_pos hc).symm⟩
  · obtain rfl := Bool.eq_false_iff.2 (mt h.1 hc)
    exact ⟨s, rfl, frame_setPc s s.pc, (if_neg hc).symm⟩

/-! The obligations -/

/-- Settles O27: the own check of `00EE` is `sp = 0`, and past it the return is a pop. -/
theorem returnPopsOrFaults : Obligations.ReturnPopsOrFaults := by
  refine fun s => ⟨fun k hk => ⟨s.popPc, ?_, ?_, top_eq_stack s k hk, frame_popPc s⟩, fun h => ?_⟩
  · rw [exec_ret, if_neg (by omega)]
  · simp only [State.popPc_sp, Fin.val_ofNat, hk]
    omega
  · exact exec_faultedAt _ s _ _ (if_pos h)

/-- Settles O28: the jump writes pc, and 12 bits fit. -/
theorem jumpSetsPc : Obligations.JumpSetsPc :=
  fun nnn s => ⟨encode_toNat _ rfl, _, exec_jp nnn s, wordOfAddr_toNat nnn, frame_setPc s _⟩

/-- Settles O29: the own check of `2nnn` is `sp = 16`, and past it the call is a push and a jump. -/
theorem callPushesOrFaults : Obligations.CallPushesOrFaults := by
  refine fun nnn s => ⟨fun k hk => ⟨(s.push s.pc).setPc (wordOfAddr nnn), ?_, stack_push s s.pc k hk, ?_,
    wordOfAddr_toNat nnn, ?_⟩, fun h => ?_⟩
  · rw [exec_call, if_neg (by omega)]
  · simp only [State.setPc_sp, State.push_sp, Fin.val_ofNat, hk]
    omega
  · simpa only [or_assoc] using (frame_push s s.pc k hk).trans (frame_setPc _ (wordOfAddr nnn))
  · exact exec_faultedAt _ s _ _ (if_pos h)

/-- Settles O30: a byte and 12 bits add up below 65536. -/
theorem jumpWithOffsetAddsV0 : Obligations.JumpWithOffsetAddsV0 := by
  refine fun nnn s => ⟨encode_toNat _ rfl, _, exec_jpV0 nnn s, ?_, frame_setPc s _⟩
  have := nnn.isLt
  have := (s.getV 0).isLt
  simp only [State.setPc_pc, BitVec.toNat_add, wordOfByte_toNat, wordOfAddr_toNat]
  omega

/-- Settles O31: each of the four is a skip on the test that decides its comparison. -/
theorem registerSkipsCompare : Obligations.RegisterSkipsCompare := fun x y kk s =>
  ⟨encode_toNat (.seImm x kk) rfl, encode_toNat (.sneImm x kk) rfl, encode_toNat (.seReg x y) rfl,
    encode_toNat (.sneReg x y) rfl, skipIf_spec s _ _ beq_iff_eq, skipIf_spec s _ _ bne_iff_ne,
    skipIf_spec s _ _ beq_iff_eq, skipIf_spec s _ _ bne_iff_ne⟩

end Sys2Proof.Machine

/-!
The statements about the register and ALU instructions (42_alu.md): what they write to `Vx`, which of them
write a flag, and the random byte.
-/

namespace Sys2Proof.Machine

/-! What a register write, a result with its flag and a drawn random byte change -/

/-- A register holds the byte written to it. -/
theorem getV_setV_same (s : State) (r : Reg) (b : Byte) : (s.setV r b).getV r = b := by
  rw [State.getV_setV, if_pos rfl]

/-- A register write changes nothing else, `VF` as a flag included. -/
theorem frame_setV (s : State) (r : Reg) (b : Byte) : Frame (fun p => p = .reg r) s (s.setV r b) := by
  intro p hp
  cases p
  case reg q =>
    have hne : q ≠ r := fun h => hp (congrArg Part.reg h)
    exact (s.getV_setV r q b).trans (if_neg hne)
  all_goals rfl

/-- A destination other than `VF` keeps the result when the flag is written after it
(40_cycle_and_dispatch.md R95). -/
theorem getV_setVThenFlag (s : State) (x : Reg) (result : Byte) (flag : Bool) (hx : x ≠ flagReg) :
    (s.setVThenFlag x result flag).getV x = result := by
  rw [State.setVThenFlag_eq, State.getV_setV, if_neg hx, getV_setV_same]

/-- A result and its flag change at most the destination and `VF`. -/
theorem frame_setVThenFlag (s : State) (x : Reg) (result : Byte) (flag : Bool) :
    Frame (fun p => p = .reg x ∨ p = .reg flagReg) s (s.setVThenFlag x result flag) :=
  (frame_setV s x result).trans (frame_setV _ flagReg (flagByte flag))

/-- Where the generator has bytes ready, the first is the answer and is used up
(46_host_interface.md R206). -/
theorem randomByte_of_cons {s : State} {b : Byte} {bs : List Byte} (h : s.random = b :: bs) :
    s.randomByte = b := by
  simp only [State.randomByte, h]

theorem dropRandom_of_cons {s : State} {b : Byte} {bs : List Byte} (h : s.random = b :: bs) :
    s.dropRandom = { s with random := bs } := by
  simp only [State.dropRandom, h]

/-- Where it has none ready, the answer is the free value, and one more has been drawn. -/
theorem randomByte_of_nil {s : State} (h : s.random = []) :
    s.randomByte = Config.freeRandom s.draws := by
  simp only [State.randomByte, h]

theorem dropRandom_of_nil {s : State} (h : s.random = []) :
    s.dropRandom = { s with draws := s.draws + 1 } := by
  simp only [State.dropRandom, h]

/-- The list of ready bytes is a part of its own. -/
theorem frame_random (s : State) (bs : List Byte) :
    Frame (fun p => p = .random) s { s with random := bs } := by
  intro p hp
  cases p
  case random => exact absurd rfl hp
  all_goals rfl

/-- The count of free values is a part of its own. -/
theorem frame_draws (s : State) (n : Nat) : Frame (fun p => p = .draws) s { s with draws := n } := by
  intro p hp
  cases p
  case draws => exact absurd rfl hp
  all_goals rfl

/-! The flags and results as numbers (42_alu.md R142) -/

theorem flagByte_carryOut (a b : Byte) :
    flagByte (carryOut a b) = if 255 < a.toNat + b.toNat then 1 else 0 := by
  simp only [flagByte, carryOut, decide_eq_true_eq]

theorem flagByte_noBorrow (a b : Byte) :
    flagByte (noBorrow a b) = if a.toNat ≥ b.toNat then 1 else 0 := by
  simp only [flagByte, noBorrow, decide_eq_true_eq, BitVec.le_def, ge_iff_le]

/-- A stored difference is the true one, plus 256 on a borrow. -/
theorem toNat_sub_eq_ite (a b : Byte) : (a - b).toNat =
    if a.toNat ≥ b.toNat then a.toNat - b.toNat else a.toNat + 256 - b.toNat := by
  split <;> bv_omega

theorem flagByte_toNat (b : Bool) : (flagByte b).toNat = b.toNat := by
  cases b <;> rfl

/-- The bit that a right shift shifts out is the remainder of the halving. -/
theorem flagByte_shiftedOutRight_toNat (a : Byte) :
    (flagByte (shiftedOutRight a)).toNat = a.toNat % 2 := by
  rw [flagByte_toNat, shiftedOutRight, BitVec.getLsbD, Nat.toNat_testBit, pow_zero, Nat.div_one]

/-- The bit that a left shift shifts out is the top one. -/
theorem flagByte_shiftedOutLeft_toNat (a : Byte) :
    (flagByte (shiftedOutLeft a)).toNat = a.toNat / 128 := by
  have := a.isLt
  rw [flagByte_toNat, shiftedOutLeft, BitVec.getLsbD, Nat.toNat_testBit]
  omega

/-- A difference and its no-borrow bit, whichever operand is subtracted from which. -/
theorem setVThenFlag_difference (s : State) (x : Reg) (a b : Byte) :
    (s.setVThenFlag x (a - b) (noBorrow a b)).getV flagReg = (if a.toNat ≥ b.toNat then 1 else 0) ∧
    (x ≠ flagReg → ((s.setVThenFlag x (a - b) (noBorrow a b)).getV x).toNat =
      if a.toNat ≥ b.toNat then a.toNat - b.toNat else a.toNat + 256 - b.toNat) ∧
    Frame (fun p => p = .reg x ∨ p = .reg flagReg) s (s.setVThenFlag x (a - b) (noBorrow a b)) := by
  refine ⟨(getV_flagReg_setFlag _ _).trans (flagByte_noBorrow a b), fun hx => ?_,
    frame_setVThenFlag s x _ _⟩
  rw [getV_setVThenFlag s x _ _ hx, toNat_sub_eq_ite]

/-! The obligations -/

/-- Settles O32: each of the three writes one register, and a sum of bytes wraps at 256. -/
theorem immediateAndCopyWriteVx : Obligations.ImmediateAndCopyWriteVx := by
  refine fun x y kk s =>
    ⟨encode_toNat (.ldImm x kk) rfl, encode_toNat (.addImm x kk) rfl, encode_toNat (.ldReg x y) rfl,
      ⟨_, exec_ldImm x kk s, getV_setV_same s x _, frame_setV s x _⟩,
      ⟨_, exec_addImm x kk s, ?_, frame_setV s x _⟩,
      ⟨_, exec_ldReg x y s, getV_setV_same s x _, frame_setV s x _⟩⟩
  rw [getV_setV_same, BitVec.toNat_add]

/-- Settles O33: each of the three writes one register, bit by bit. -/
theorem bitwiseInstructionsWriteVx : Obligations.BitwiseInstructionsWriteVx := by
  refine fun x y s =>
    ⟨⟨_, exec_orReg x y s, frame_setV s x _, fun k => ?_⟩,
      ⟨_, exec_andReg x y s, frame_setV s x _, fun k => ?_⟩,
      ⟨_, exec_xorReg x y s, frame_setV s x _, fun k => ?_⟩⟩
  · rw [getV_setV_same, BitVec.getLsbD_or]
  · rw [getV_setV_same, BitVec.getLsbD_and]
  · rw [getV_setV_same, BitVec.getLsbD_xor]

/-- Settles O34: the carry is written after the sum. -/
theorem addWritesSumThenCarry : Obligations.AddWritesSumThenCarry := by
  refine fun x y s => ⟨_, exec_addReg x y s,
    (getV_flagReg_setFlag _ _).trans (flagByte_carryOut _ _), fun hx => ?_, frame_setVThenFlag s x _ _⟩
  rw [getV_setVThenFlag s x _ _ hx, BitVec.toNat_add]

/-- Settles O35: both forms write a difference and then its no-borrow bit. -/
theorem subtractsWriteDifferenceThenNoBorrow : Obligations.SubtractsWriteDifferenceThenNoBorrow :=
  fun x y s => ⟨⟨_, exec_sub x y s, setVThenFlag_difference s x _ _⟩,
    ⟨_, exec_subn x y s, setVThenFlag_difference s x _ _⟩⟩

/-- Settles O36: a shift by one halves or doubles, and the bit shifted out is written after it. -/
theorem shiftsWriteResultThenBitOut : Obligations.ShiftsWriteResultThenBitOut := by
  refine fun x y s => ⟨⟨_, exec_shr x y s, ?_, fun hx => ?_, frame_setVThenFlag s x _ _⟩,
    ⟨_, exec_shl x y s, ?_, fun hx => ?_, frame_setVThenFlag s x _ _⟩⟩
  · exact (congrArg BitVec.toNat (getV_flagReg_setFlag _ _)).trans (flagByte_shiftedOutRight_toNat _)
  · rw [getV_setVThenFlag s x _ _ hx, BitVec.toNat_ushiftRight, Nat.shiftRight_one]
  · exact (congrArg BitVec.toNat (getV_flagReg_setFlag _ _)).trans (flagByte_shiftedOutLeft_toNat _)
  · rw [getV_setVThenFlag s x _ _ hx, BitVec.toNat_shiftLeft, Nat.shiftLeft_eq, pow_one]

/-- Settles O37: the generator's answer is a ready byte or the free value, and only its part moves. -/
theorem randomIsMaskedGeneratorByte : Obligations.RandomIsMaskedGeneratorByte := by
  refine fun x kk s => ⟨fun b bs h => ?_, fun h => ?_⟩
  · rw [exec_rnd, randomByte_of_cons h, dropRandom_of_cons h]
    refine ⟨_, rfl, getV_setV_same _ x _, rfl, fun p hp => ?_⟩
    exact (frame_random s bs).trans (frame_setV _ x _) p (mt Or.symm hp)
  · rw [exec_rnd, randomByte_of_nil h, dropRandom_of_nil h]
    refine ⟨_, rfl, getV_setV_same _ x _, rfl, fun p hp => ?_⟩
    exact (frame_draws s _).trans (frame_setV _ x _) p (mt Or.symm hp)

end Sys2Proof.Machine

/-!
The statements about the index register and memory (43_index_memory.md): the writes of `I`, and the store
and load instructions through it where their access stays within memory.
-/

namespace Sys2Proof.Machine

/-! What a write of `I`, ascending stores and a load of registers change -/

/-- A write of `I` changes nothing else, `VF` included. -/
theorem frame_setIndex (s : State) (w : Word) : Frame (fun p => p = .index) s (s.setIndex w) := by
  intro p hp
  cases p
  case index => exact absurd rfl hp
  all_goals rfl

/-- Ascending stores change the bytes at the addresses they write and nothing else, `I` included. -/
theorem frame_writeBytes (s : State) (a last : Nat) (bs : List Byte) (hlen : bs.length = last + 1) :
    Frame (fun p => ∃ k, k ≤ last ∧ p = .mem (a + k)) s (s.writeBytes a bs) := by
  intro p hp
  cases p
  case mem q =>
    have hout : ¬ (a ≤ q ∧ q - a < bs.length) := fun ⟨hle, hlt⟩ =>
      hp ⟨q - a, by omega, by rw [Nat.add_sub_of_le hle]⟩
    exact (State.readMem_writeBytes bs s a q).trans (dif_neg hout)
  all_goals simp [Same]

/-- The byte at offset `k` of ascending stores is the `k`-th of the bytes stored. -/
theorem readMem_writeBytes_add (s : State) (a k : Nat) (bs : List Byte) (hk : k < bs.length) :
    (s.writeBytes a bs).readMem (a + k) = bs[k] := by
  simp [State.readMem_writeBytes, hk]

/-- A load changes `V0` to `Vx` and nothing else, `I` included. -/
theorem frame_loadRegs (s : State) (x : Reg) :
    Frame (fun p => ∃ r : Reg, r ≤ x ∧ p = .reg r) s (s.loadRegs x) := by
  intro p hp
  cases p
  case reg q =>
    have hq : ¬ q ≤ x := fun h => hp ⟨q, h, rfl⟩
    exact (s.getV_loadRegs x q).trans (if_neg hq)
  all_goals simp [Same]

/-! Past its own check, and the digits of `Fx33` -/

/-- An instruction whose own check raises nothing has its effect. -/
theorem exec_of_unchecked (i : Instr) (s : State) (h : faultOfInstr s i = none) :
    exec i s = .next (effect i s) := by
  rw [exec_eq, h]

/-- After `Fx33` the byte at `I + k` is the `k`-th digit; a number up to a byte is stored whole. -/
theorem toNat_readMem_effect_ldB (s : State) (x : Reg) (k d : Nat)
    (hdigit : (decimalDigits (s.getV x))[k]? = some (BitVec.ofNat 8 d)) (hd : d ≤ (s.getV x).toNat) :
    ((effect (.ldB x) s).readMem (s.index.toNat + k)).toNat = d := by
  obtain ⟨hk, hb⟩ := List.getElem?_eq_some_iff.1 hdigit
  have hread : (effect (.ldB x) s).readMem (s.index.toNat + k) = BitVec.ofNat 8 d :=
    (readMem_writeBytes_add s _ k _ hk).trans hb
  have := (s.getV x).isLt
  rw [hread, BitVec.toNat_ofNat]
  exact Nat.mod_eq_of_lt (by omega)

/-! The obligations -/

/-- Settles O39: within memory `Fx33` is three ascending stores of the digits. -/
theorem decimalStoreWritesThreeDigits : Obligations.DecimalStoreWritesThreeDigits := by
  intro x s hbound
  have hcheck : faultOfInstr s (.ldB x) = none := (memFault_eq_none s 2).2 (by omega)
  refine ⟨_, exec_of_unchecked _ s hcheck, ?_, ?_, ?_, frame_writeBytes s _ 2 _ rfl⟩
  · exact toNat_readMem_effect_ldB s x 0 _ rfl (Nat.div_le_self _ _)
  · exact toNat_readMem_effect_ldB s x 1 _ rfl (by omega)
  · exact toNat_readMem_effect_ldB s x 2 _ rfl (Nat.mod_le _ _)

/-- Settles O40: within memory `Fx55` is ascending stores of `V0` to `Vx`. -/
theorem registerStoreWritesAscending : Obligations.RegisterStoreWritesAscending := by
  intro x s hbound
  have hcheck : faultOfInstr s (.ldMemVx x) = none := (memFault_eq_none s x.val).2 hbound
  exact ⟨_, exec_of_unchecked _ s hcheck, fun r hr => readMem_effect_ldMemVx s x r hr,
    frame_writeBytes s _ x.val _ (s.length_regsUpTo x)⟩

/-- Settles O41: within memory `Fx65` is the load of `V0` to `Vx`. -/
theorem registerLoadReadsAscending : Obligations.RegisterLoadReadsAscending := by
  intro x s hbound
  have hcheck : faultOfInstr s (.ldVxMem x) = none := (memFault_eq_none s x.val).2 hbound
  exact ⟨_, exec_of_unchecked _ s hcheck, fun r hr => (s.getV_loadRegs x r).trans (if_pos hr),
    frame_loadRegs s x⟩

/-- Settles O38: each of the three writes `I` alone; 12 bits fit, and so does a byte times 5. -/
theorem indexInstructionsWriteIndex : Obligations.IndexInstructionsWriteIndex := by
  refine fun x nnn s =>
    ⟨encode_toNat (.ldI nnn) rfl, encode_toNat (.addI x) rfl, encode_toNat (.ldF x) rfl,
      ⟨_, exec_ldI nnn s, wordOfAddr_toNat nnn, frame_setIndex s _⟩,
      ⟨_, exec_addI x s, ?_, frame_setIndex s _⟩,
      ⟨_, exec_ldF x s, ?_, frame_setIndex s _⟩⟩
  · rw [State.setIndex_index, BitVec.toNat_add, wordOfByte_toNat]
  · have := (s.getV x).isLt
    rw [State.setIndex_index, BitVec.toNat_mul, wordOfByte_toNat]
    have hfit : (s.getV x).toNat * 5 < 2 ^ 16 := by omega
    exact Nat.mod_eq_of_lt hfit

end Sys2Proof.Machine

/-!
The statements about the display (44_display.md): the clear, the draw with its collision, the fault of a draw
off the grid, and the draw that undoes itself.
-/

namespace Sys2Proof.Machine

/-! What a write of the framebuffer and a draw change -/

/-- A write of the framebuffer changes the pixels and `redraw`, and nothing else. -/
theorem frame_setDisplay (s : State) (f : Framebuffer) :
    Frame (fun p => p = .redraw ∨ ∃ row col, p = .pixel row col) s (s.setDisplay f) := by
  intro p hp
  cases p
  case redraw => exact absurd (.inl rfl) hp
  case pixel row col => exact absurd (.inr ⟨row, col, rfl⟩) hp
  all_goals rfl

/-- A draw changes the pixels, `redraw` and `VF`, and nothing else. -/
theorem frame_drawPixels (s : State) (ps : List (Nat × Nat)) :
    Frame (fun p => p = .redraw ∨ p = .reg flagReg ∨ ∃ row col, p = .pixel row col) s
      (s.drawPixels ps) := by
  have hframe := (frame_setDisplay s (togglePixels s.fb ps).1).trans
    (frame_setV _ flagReg (flagByte (togglePixels s.fb ps).2))
  simpa only [State.drawPixels_eq, or_assoc, or_comm, or_left_comm] using hframe

/-! The pixels that a draw toggles (44_display.md R171) -/

/-- The pixels under the set bits of a sprite that lie in the grid. -/
def State.gridPixels (s : State) (vx vy n : Nat) : List (Nat × Nat) :=
  (spritePixels vx vy (s.readBytes n)).filter (fun p => !offGrid p)

theorem effect_drw (x y : Reg) (n : Nat) (s : State) : effect (.drw x y n) s =
    s.drawPixels (s.gridPixels (s.getV x).toNat (s.getV y).toNat n) := rfl

theorem offGrid_eq_false_iff (p : Nat × Nat) : offGrid p = false ↔ p.1 < 64 ∧ p.2 < 32 := by
  simp [offGrid]

theorem mem_gridPixels (s : State) (vx vy n row col : Nat) : (col, row) ∈ s.gridPixels vx vy n ↔
    spriteCovers s vx vy n row col = true ∧ col < 64 ∧ row < 32 := by
  rw [State.gridPixels, List.mem_filter, mem_spritePixels_iff_covers, Bool.not_eq_true',
    offGrid_eq_false_iff]

/-- A draw toggles distinct pixels of the grid, so each one once. -/
theorem togglePixels_gridPixels (s : State) (vx vy n : Nat) :
    (∀ row col, (togglePixels s.fb (s.gridPixels vx vy n)).1.pixel row col =
      (s.fb.pixel row col ^^ decide ((col, row) ∈ s.gridPixels vx vy n))) ∧
    (togglePixels s.fb (s.gridPixels vx vy n)).2 =
      (s.gridPixels vx vy n).any (fun p => s.fb.pixel p.2 p.1) :=
  togglePixels_spec _ s.fb ((nodup_spritePixels vx _ vy).filter _)
    (fun p hp => ((mem_gridPixels s vx vy n p.2 p.1).1 hp).2)

/-- A draw exclusive-ors each pixel with the sprite bit over it. -/
theorem pixel_drawPixels_gridPixels (s : State) (vx vy n : Nat) (row : Fin 32) (col : Fin 64) :
    (s.drawPixels (s.gridPixels vx vy n)).fb.pixel row col =
      (s.fb.pixel row col ^^ spriteCovers s vx vy n row col) := by
  have htoggled := (togglePixels_gridPixels s vx vy n).1 row col
  simpa [mem_gridPixels] using htoggled

/-- A draw collides iff some pixel under a set bit was lit. -/
theorem collision_gridPixels (s : State) (vx vy n : Nat) :
    (togglePixels s.fb (s.gridPixels vx vy n)).2 = true ↔
      ∃ (row : Fin 32) (col : Fin 64), s.fb.pixel row col = true ∧
        spriteCovers s vx vy n row col = true := by
  rw [(togglePixels_gridPixels s vx vy n).2, List.any_eq_true]
  constructor
  · rintro ⟨⟨col, row⟩, hmem, hlit⟩
    obtain ⟨hcover, hcol, hrow⟩ := (mem_gridPixels s vx vy n row col).1 hmem
    exact ⟨⟨row, hrow⟩, ⟨col, hcol⟩, hlit, hcover⟩
  · rintro ⟨row, col, hlit, hcover⟩
    exact ⟨(col, row), (mem_gridPixels s vx vy n row col).2 ⟨hcover, col.isLt, row.isLt⟩, hlit⟩

/-- `VF` after a draw is the collision. -/
theorem getV_flagReg_drawPixels (s : State) (ps : List (Nat × Nat)) :
    (s.drawPixels ps).getV flagReg = flagByte (togglePixels s.fb ps).2 := getV_flagReg_setFlag _ _

theorem flagByte_eq_one_iff (b : Bool) : flagByte b = 1 ↔ b = true := by
  cases b <;> simp [flagByte]

/-- A sprite whose set bits lie in the grid has none outside it. -/
theorem firstOffGrid_eq_none (s : State) (vx vy n : Nat)
    (h : ∀ row col, spriteCovers s vx vy n row col → row ≤ 31 ∧ col ≤ 63) :
    firstOffGrid s vx vy n = none := by
  rw [← find_offGrid_eq_firstOffGrid, List.find?_eq_none]
  rintro ⟨col, row⟩ hp
  obtain ⟨hrow, hcol⟩ := h row col ((mem_spritePixels_iff_covers s vx vy n row col).1 hp)
  rw [Bool.not_eq_true, offGrid_eq_false_iff]
  exact ⟨Nat.lt_succ_of_le hcol, Nat.lt_succ_of_le hrow⟩

/-- The own check of a draw whose bytes lie in memory is that of the edge (60_exceptions.md R228). -/
theorem faultOfInstr_drw (s : State) (x y : Reg) (n : Nat)
    (hbytes : n = 0 ∨ s.index.toNat + n - 1 ≤ 4095) : faultOfInstr s (.drw x y n) =
      if s.cfg.drawEdge = .fault then
        (firstOffGrid s (s.getV x).toNat (s.getV y).toNat n).map
          (fun p => (.outOfBounds, .fb (BitVec.ofNat 9 p.1) (BitVec.ofNat 9 p.2)))
      else none := by
  have hmem : (if n = 0 then none else memFault s (n - 1)) = none := by
    rw [ite_eq_left_iff, memFault_eq_none]
    omega
  simp only [faultOfInstr, hmem]

/-! A draw on what a draw left -/

/-- An instruction that leaves the core running has taken no fault, and the core ran before it. -/
theorem eq_effect_of_exec_running (i : Instr) (s t : State) (h : exec i s = .next t)
    (ht : t.halted = false) : t = effect i s ∧ s.halted = false := by
  rw [exec_eq] at h
  obtain rfl := Host.Outcome.next.inj h
  cases hf : faultOfInstr s i with
  | some f => simp [hf] at ht
  | none => exact ⟨rfl, by simpa [hf] using ht⟩

/-- A draw leaves every register but `VF`. -/
theorem getV_drawPixels (s : State) (ps : List (Nat × Nat)) (r : Reg) (hr : r ≠ flagReg) :
    (s.drawPixels ps).getV r = s.getV r :=
  frame_drawPixels s ps (.reg r) (by simpa using hr)

/-- A draw leaves `I` and memory, and so the sprite of the next one. -/
theorem spriteCovers_drawPixels (s : State) (ps : List (Nat × Nat)) (vx vy n row col : Nat) :
    spriteCovers (s.drawPixels ps) vx vy n row col = spriteCovers s vx vy n row col := rfl

/-- Pixels toggled twice by one sprite are as before. -/
theorem fb_of_toggled_twice (s t u : State) (cover : Nat → Nat → Bool)
    (ht : ∀ (row : Fin 32) (col : Fin 64), t.fb.pixel row col = (s.fb.pixel row col ^^ cover row col))
    (hu : ∀ (row : Fin 32) (col : Fin 64), u.fb.pixel row col = (t.fb.pixel row col ^^ cover row col)) :
    u.fb = s.fb := by
  refine Framebuffer.ext_pixel _ _ fun row col => ?_
  rw [hu, ht, Bool.xor_assoc, Bool.xor_self, Bool.xor_false]

/-! The obligations -/

/-- Settles O44: the own check passes, and the draw toggles distinct pixels of the grid. -/
theorem drawTogglesPixelsUnderSetBits : Obligations.DrawTogglesPixelsUnderSetBits := by
  intro x y n s hbytes hgrid
  have hcheck : faultOfInstr s (.drw x y n) = none := by
    rw [faultOfInstr_drw s x y n hbytes, ite_eq_right_iff]
    intro hedge
    rw [firstOffGrid_eq_none s _ _ n (hgrid hedge), Option.map_none]
  refine ⟨_, exec_of_unchecked _ s hcheck, pixel_drawPixels_gridPixels s _ _ n, ?_, rfl,
    frame_drawPixels s _⟩
  rw [effect_drw, getV_flagReg_drawPixels, flagByte]
  exact if_congr (collision_gridPixels s _ _ n) rfl rfl

/-- Settles O45: the own check finds the first set bit outside the grid. -/
theorem drawOffGridFaultsUnderFaultPolicy : Obligations.DrawOffGridFaultsUnderFaultPolicy := by
  intro x y n s p hbytes hedge hfirst
  refine exec_faultedAt _ s _ _ ?_
  rw [faultOfInstr_drw s x y n hbytes, if_pos hedge, hfirst, Option.map_some]

/-- Settles O46: both draws toggle the pixels under one sprite, and a pixel under it is lit for the second
draw exactly if it was unlit for the first. -/
theorem drawingTwiceRestoresScreen : Obligations.DrawingTwiceRestoresScreen := by
  intro x y n s t u hx hy hu hst htu
  obtain ⟨rfl, ht⟩ := eq_effect_of_exec_running _ t u htu hu
  obtain ⟨rfl, -⟩ := eq_effect_of_exec_running _ s t hst ht
  have hfirst := pixel_drawPixels_gridPixels s (s.getV x).toNat (s.getV y).toNat n
  simp only [effect_drw, getV_drawPixels s _ x hx, getV_drawPixels s _ y hy]
  constructor
  · exact fb_of_toggled_twice s _ _ _ hfirst (pixel_drawPixels_gridPixels _ _ _ n)
  · rw [getV_flagReg_drawPixels, flagByte_eq_one_iff, collision_gridPixels]
    refine exists_congr fun row => exists_congr fun col => ?_
    rw [hfirst, spriteCovers_drawPixels]
    refine and_congr_left fun hcover => ?_
    rw [hcover, Bool.xor_true, Bool.not_eq_true']

/-- Settles O43: the blank framebuffer replaces the one before. -/
theorem clearUnlightsEveryPixel : Obligations.ClearUnlightsEveryPixel :=
  ⟨rfl, fun s => ⟨_, exec_cls s, fun row col => Framebuffer.pixel_blank row col, rfl,
    frame_setDisplay s _⟩⟩

end Sys2Proof.Machine

/-!
The statements about the keypad and the timers (45_keypad_timers.md): the skips that test a key, the key
wait, and the instructions that read or set a timer.
-/

namespace Sys2Proof.Machine

/-! What a write of a timer leaves unchanged -/

/-- A write of the delay timer changes nothing else. -/
theorem frame_setDt (s : State) (b : Byte) : Frame (fun p => p = .dt) s (s.setDt b) := by
  intro p hp
  cases p
  case dt => exact absurd rfl hp
  all_goals rfl

/-- A write of the sound timer changes nothing else, the tone included. -/
theorem frame_setSt (s : State) (b : Byte) : Frame (fun p => p = .st) s (s.setSt b) := by
  intro p hp
  cases p
  case st => exact absurd rfl hp
  all_goals rfl

/-! The keys (10_state.md R28) -/

theorem keyDown_val (s : State) (k : Fin 16) : s.keyDown k.val = s.key[k] := by
  simp [State.keyDown]

/-- The lowest key is a pressed one below which none is pressed. -/
theorem lowestKey_eq_some (s : State) (k : Fin 16) (hk : s.key[k] = true)
    (hleast : ∀ j : Fin 16, j < k → s.key[j] = false) : s.lowestKey = some k.val := by
  refine List.find?_range_eq_some.2 ⟨?_, List.mem_range.2 k.isLt, fun j hj => ?_⟩
  · rw [keyDown_val, hk]
  · have hup := hleast ⟨j, hj.trans k.isLt⟩ hj
    rw [← keyDown_val] at hup
    rw [hup, Bool.not_false]

theorem lowestKey_eq_none (s : State) (h : ∀ k : Fin 16, s.key[k] = false) : s.lowestKey = none := by
  rw [← Option.not_isSome_iff_eq_none, lowestKey_isSome]
  rintro ⟨k, hk⟩
  exact Bool.false_ne_true ((h k).symm.trans hk)

/-- A byte up to 15 numbers a key and raises no fault (45_keypad_timers.md R180). -/
theorem keyFault_eq_none (b : Byte) (k : Fin 16) (hk : b.toNat = k.val) : keyFault b = none :=
  if_neg (by omega)

/-- With a key number in `Vx`, `Ex9E` skips on that key. -/
theorem exec_skp_of_key (x : Reg) (s : State) (k : Fin 16) (hk : (s.getV x).toNat = k.val) :
    exec (.skp x) s = skipIf s.key[k] s := by
  rw [exec_of_unchecked (.skp x) s (keyFault_eq_none _ k hk), ← keyDown_val, ← hk]
  rfl

/-- With a key number in `Vx`, `ExA1` skips on the opposite test. -/
theorem exec_sknp_of_key (x : Reg) (s : State) (k : Fin 16) (hk : (s.getV x).toNat = k.val) :
    exec (.sknp x) s = skipIf (!s.key[k]) s := by
  rw [exec_of_unchecked (.sknp x) s (keyFault_eq_none _ k hk), ← keyDown_val, ← hk]
  simp only [effect, skipIf]
  cases s.keyDown (s.getV x).toNat <;> rfl

/-! The obligations -/

/-- Settles O47: with a key number both forms are skips on its key, and above 15 the own check faults. -/
theorem keySkipsTestKeyOrFault : Obligations.KeySkipsTestKeyOrFault := by
  refine fun x s => ⟨fun k hk => ⟨?_, ?_⟩, fun h => ⟨?_, ?_⟩⟩
  · rw [exec_skp_of_key x s k hk]
    exact skipIf_spec s _ _ Iff.rfl
  · rw [exec_sknp_of_key x s k hk]
    exact skipIf_spec s _ _ (Bool.not_eq_true' _).to_iff
  · exact exec_faultedAt _ s _ _ (if_pos h)
  · exact exec_faultedAt _ s _ _ (if_pos h)

/-- Settles O48: the lowest key goes to `Vx`, and a key number fits a byte; without one pc goes back. -/
theorem keyWaitLatchesLowestKey : Obligations.KeyWaitLatchesLowestKey := by
  refine fun x s => ⟨encode_toNat (.ldVxK x) rfl, fun k hk hleast => ?_, fun hnone => ?_⟩
  · have hfit : k.val < 2 ^ 8 := by omega
    rw [exec_ldVxK, lowestKey_eq_some s k hk hleast]
    refine ⟨s.setV x (BitVec.ofNat 8 k.val), rfl, ?_, frame_setV s x _⟩
    rw [getV_setV_same, BitVec.toNat_ofNat, Nat.mod_eq_of_lt hfit]
  · rw [exec_ldVxK, lowestKey_eq_none s hnone]
    exact ⟨s.waitHere, rfl, rfl, frame_setPc s _⟩

/-- Settles O49: each form is one write, of the register or of the timer. -/
theorem timerInstructionsMoveTimers : Obligations.TimerInstructionsMoveTimers := fun x s =>
  ⟨encode_toNat (.ldVxDt x) rfl, encode_toNat (.ldDtVx x) rfl, encode_toNat (.ldStVx x) rfl,
    ⟨_, exec_ldVxDt x s, getV_setV_same s x s.dt, frame_setV s x s.dt⟩,
    ⟨_, exec_ldDtVx x s, rfl, frame_setDt s _⟩, ⟨_, exec_ldStVx x s, rfl, frame_setSt s _⟩⟩

end Sys2Proof.Machine

/-!
The statements about the host's transactions (46_host_interface.md): what each makes of the state, what it
leaves unchanged, what the host is given, and that all of them keep the invariant.
-/

namespace Sys2Proof.Machine

/-! Loading a ROM (46_host_interface.md R201, R202) -/

/-- Everything a load can do: write the bytes at 0x200 upward, or fault. -/
theorem loadRom_cases (bytes : List Byte) (s : State) :
    (bytes.length ≤ 3584 ∧ loadRom bytes s = s.writeBytes 0x200 bytes) ∨
    (3584 < bytes.length ∧
      loadRom bytes s = s.raise .romTooLarge s.pc none (.length bytes.length)) := by
  rcases Nat.lt_or_ge 3584 bytes.length with h | h
  · exact .inr ⟨h, if_pos h⟩
  · exact .inl ⟨h, if_neg (Nat.not_lt.2 h)⟩

/-- Ascending stores change the bytes they write and nothing else, where they write none too. -/
theorem frame_writeBytes_length (s : State) (a : Nat) (bs : List Byte) :
    Frame (fun p => ∃ k, k < bs.length ∧ p = .mem (a + k)) s (s.writeBytes a bs) := by
  cases bs with
  | nil => intro p _; cases p <;> rfl
  | cons b bs =>
    simpa only [List.length_cons, Nat.lt_succ_iff] using frame_writeBytes s a bs.length (b :: bs) rfl

/-- A fault changes `halted` and the record, and nothing else (60_exceptions.md R226). -/
theorem frame_raise (s : State) (c : Cause) (pc : Word) (o : Option Word) (d : Detail) :
    Frame (fun p => p = .halted ∨ p = .fault) s (s.raise c pc o d) := by
  intro p hp
  cases p
  case halted => exact absurd (.inl rfl) hp
  case fault => exact absurd (.inr rfl) hp
  all_goals rfl

/-- Ascending stores leave every byte below the first address alone. -/
theorem readMem_writeBytes_below (s : State) (a q : Nat) (bs : List Byte) (hq : q < a) :
    (s.writeBytes a bs).readMem q = s.readMem q := by
  rw [State.readMem_writeBytes, dif_neg (by omega)]

/-! The cycle that the host gives a random byte (40_cycle_and_dispatch.md R90) -/

/-- `execute_cycle` answers what the step on the given byte answers, the generator put back. -/
theorem executeCycle_eq (rnd : Byte) (s : State) :
    ∃ u, step (s.withGenerator [rnd] s.draws) = .next u ∧
      executeCycle rnd s = .next (u.withGenerator s.random s.draws) := by
  obtain ⟨u, hu⟩ := dispatchAndStepAreTotal.2 (s.withGenerator [rnd] s.draws)
  exact ⟨u, hu, congrArg (restoreRandom s.random s.draws) hu⟩

/-- The generator is no part of the invariant. -/
theorem inv_withGenerator (s : State) (bytes : List Byte) (n : Nat) (h : Inv s) :
    Inv (s.withGenerator bytes n) := h

/-- A core that is halted after its cycle has given no tone (40_cycle_and_dispatch.md R98, R99). -/
theorem tone_of_step_halted (s t : State) (h : step s = .next t) (ht : t.halted = true) :
    t.tone = false := by
  rcases step_stays_faults_or_completes s t h with ⟨-, rfl⟩ | ⟨-, r, -, rfl⟩ | ⟨i, hc, rfl⟩
  · rfl
  · rfl
  · exact absurd ht (by simp [hc.running])

/-! The keys (46_host_interface.md R204) -/

/-- `set_keys` writes the keys and nothing else. -/
theorem frame_setKeys (k : Vector Bool 16) (s : State) :
    Frame (fun p => ∃ j, p = .key j) s (setKeys k s) := by
  intro p hp
  cases p
  case key j => exact absurd ⟨j, rfl⟩ hp
  all_goals rfl

/-! The redraw flag (46_host_interface.md R207) -/

/-- The acknowledgement clears the flag and changes nothing else. -/
theorem frame_ackRedraw (s : State) : Frame (fun p => p = .redraw) s (ackRedraw s) := by
  intro p hp
  cases p
  case redraw => exact absurd rfl hp
  all_goals rfl

/-- A step that leaves the flag clear found it clear, and left the framebuffer alone. -/
theorem step_of_redraw_clear (s t : State) (h : step s = .next t) (ht : t.redraw = false) :
    t.fb = s.fb ∧ s.redraw = false := by
  have hkept : ¬ (t.fb ≠ s.fb ∨ t.redraw ≠ s.redraw) := fun hchange =>
    absurd (onlyDisplayInstructionsChangeScreen s t h hchange).1 (by simp [ht])
  simp only [not_or, not_not] at hkept
  exact ⟨hkept.1, hkept.2 ▸ ht⟩

/-- The same for any number of steps: the flag is never cleared on the way (10_state.md R32). -/
theorem run_of_redraw_clear (n : Nat) : ∀ s t : State, core.run n s = .next t → t.redraw = false →
    t.fb = s.fb ∧ s.redraw = false := by
  induction n with
  | zero =>
    intro s t h ht
    obtain rfl := Host.Outcome.next.inj h
    exact ⟨rfl, ht⟩
  | succ n ih =>
    intro s t h ht
    obtain ⟨u, hu⟩ := dispatchAndStepAreTotal.2 s
    rw [run_succ_of_step hu] at h
    obtain ⟨hrest, hclear⟩ := ih u t h ht
    obtain ⟨hfirst, hs⟩ := step_of_redraw_clear s u hu hclear
    exact ⟨hrest.trans hfirst, hs⟩

/-! The framebuffer as the host reads it (46_host_interface.md R205) -/

/-- Rows of one width `w`, one after the other: element `row * w + col` is that of the row. -/
theorem getElem?_flatten_of_width {α : Type} (w col : Nat) (hcol : col < w) (rows : List (List α)) :
    (∀ l ∈ rows, l.length = w) → ∀ row : Nat,
    rows.flatten[row * w + col]? = rows[row]?.bind (fun l => l[col]?) := by
  induction rows with
  | nil => intro _ row; simp
  | cons l rows ih =>
    intro hw row
    have hl : l.length = w := hw l List.mem_cons_self
    rw [List.flatten_cons]
    cases row with
    | zero =>
      rw [Nat.zero_mul, Nat.zero_add, List.getElem?_append_left (hl ▸ hcol)]
      rfl
    | succ row =>
      have hpast : (row + 1) * w + col = l.length + (row * w + col) := by rw [hl]; ring
      rw [hpast, List.getElem?_append_right (Nat.le_add_right _ _), Nat.add_sub_cancel_left,
        ih (fun r hr => hw r (List.mem_cons_of_mem _ hr))]
      rfl

/-- The rows that are read have 64 pixels each. -/
theorem length_of_mem_rows (s : State) (l : List Bool)
    (hl : l ∈ s.fb.toList.map (fun row => row.toList)) : l.length = 64 := by
  obtain ⟨row, -, rfl⟩ := List.mem_map.1 hl
  exact row.length_toList

theorem length_readFramebuffer (s : State) : (readFramebuffer s).length = 2048 := by
  rw [readFramebuffer, List.length_flatten,
    List.sum_eq_card_nsmul _ 64 (List.forall_mem_map.2 (length_of_mem_rows s))]
  simp

theorem getElem?_readFramebuffer (s : State) (row : Fin 32) (col : Fin 64) :
    (readFramebuffer s)[row.val * 64 + col.val]? = some (s.fb.pixel row col) := by
  rw [readFramebuffer, getElem?_flatten_of_width 64 col col.isLt _ (length_of_mem_rows s),
    Framebuffer.pixel_eq]
  simp

/-! The invariant after the transactions other than the cycle -/

/-- A core with its reset contents meets the invariant, whatever its parameters. -/
theorem inv_initial (cfg : Config) : Inv (State.initial cfg) := by
  have hpc : (0x200 : Word).toNat ≤ 4350 := by decide
  refine ⟨Memory.wf_nil _, hpc, fun k => ?_, rfl, nofun⟩
  simp [State.initial]

/-- `construct()` differs from it in pc and in the glyphs, and the blanked glyphs are canonical. -/
theorem inv_constructCore (s : State) : Inv (constructCore s) := by
  obtain ⟨-, -, hstack, hheld, hrec⟩ := inv_initial s.cfg
  exact ⟨Memory.wf_blankGlyphs _, Nat.zero_le _, hstack, hheld, hrec⟩

/-- A ROM that fits ends at 4095, and one that does not is recorded with its length. -/
theorem inv_loadRom (bytes : List Byte) (s : State) (h : Inv s) : Inv (loadRom bytes s) := by
  rcases loadRom_cases bytes s with ⟨hlen, hload⟩ | ⟨hlen, hload⟩ <;> rw [hload]
  · obtain ⟨hmem, hpc, hstack, hheld, hrec⟩ := h
    have hend : 0x200 + bytes.length ≤ memSize := by simp only [memSize]; omega
    have hwf := State.wf_writeBytes bytes s 0x200 hmem hend
    simp only [Inv, State.writeBytes_cfg, State.writeBytes_pc, State.writeBytes_stack,
      State.writeBytes_halted, State.writeBytes_fault]
    exact ⟨hwf, hpc, hstack, hheld, hrec⟩
  · exact inv_raise s ⟨.romTooLarge, s.pc, none, .length bytes.length⟩ (decide_eq_true hlen) h

/-! The obligations -/

/-- Settles O17: the two resets meet the invariant, a load and a cycle keep it, and the fields that the
others write are no part of it. -/
theorem transactionsKeepInvariant : Obligations.TransactionsKeepInvariant := by
  intro tr s t hs h
  cases tr
  case executeCycle rnd =>
    obtain ⟨u, hu, hcycle⟩ := executeCycle_eq rnd s
    obtain rfl := Host.Outcome.next.inj (hcycle.symm.trans h)
    have hinv := stepKeepsInvariant _ u (inv_withGenerator s [rnd] s.draws hs) hu
    exact inv_withGenerator u s.random s.draws hinv
  all_goals obtain rfl := Host.Outcome.next.inj h
  case powerOn => exact inv_constructCore s
  case reset => exact inv_initial s.cfg
  case loadRom bytes => exact inv_loadRom bytes s hs
  all_goals exact hs

/-- Settles O52: a load is ascending stores or the fault of a ROM that is too large. -/
theorem loadRomWritesOrRejects : Obligations.LoadRomWritesOrRejects := by
  refine fun bytes s => ⟨loadRom bytes s, rfl, ?_⟩
  rcases loadRom_cases bytes s with ⟨hlen, hload⟩ | ⟨hlen, hload⟩ <;> rw [hload]
  · refine ⟨fun _ => ⟨fun k => readMem_writeBytes_add s 0x200 k bytes, ?_,
      frame_writeBytes_length s 0x200 bytes⟩, fun hlong => absurd hlong (Nat.not_lt.2 hlen)⟩
    exact congrArg Reply.loaded (decide_eq_true hlen)
  · refine ⟨fun hfits => absurd hlen (Nat.not_lt.2 hfits), fun _ => ⟨rfl, ?_, rfl, frame_raise s _ _ _ _⟩⟩
    exact congrArg Reply.loaded (decide_eq_false (Nat.not_le.2 hlen))

/-- Settles O54: the keys are a field of their own, and neither a load nor a step writes it. -/
theorem setKeysWritesAllKeysOnly : Obligations.SetKeysWritesAllKeysOnly := by
  constructor
  · exact fun k s => ⟨setKeys k s, rfl, rfl, fun j => rfl, frame_setKeys k s⟩
  · intro tr s t h hset hpower hreset
    cases tr
    case powerOn => exact absurd rfl hpower
    case reset => exact absurd rfl hreset
    case setKeys k => exact absurd rfl (hset k)
    case executeCycle rnd =>
      obtain ⟨u, hu, hcycle⟩ := executeCycle_eq rnd s
      obtain rfl := Host.Outcome.next.inj (hcycle.symm.trans h)
      exact (stepNeverWritesKeysOrParameters _ u hu).1
    all_goals obtain rfl := Host.Outcome.next.inj h
    case loadRom bytes =>
      rcases loadRom_cases bytes s with ⟨-, hload⟩ | ⟨-, hload⟩ <;> simp [hload]
    all_goals rfl

/-- Settles O55: no step of a run that ends with the flag clear has changed the framebuffer. -/
theorem acknowledgedRedrawMeansUnchangedScreen : Obligations.AcknowledgedRedrawMeansUnchangedScreen :=
  fun s => ⟨rfl, rfl, ackRedraw s, rfl, rfl, rfl, frame_ackRedraw s,
    fun n t h ht => (run_of_redraw_clear n (ackRedraw s) t h ht).1⟩

/-- Settles O56: the rows of 64 pixels are read one after the other. -/
theorem framebufferIsReadRowMajor : Obligations.FramebufferIsReadRowMajor :=
  fun s => ⟨rfl, readFramebuffer s, rfl, length_readFramebuffer s, getElem?_readFramebuffer s⟩

/-- Settles O58: of the transactions left only a load writes any of these parts, and it starts at 0x200. -/
theorem hostCannotWriteProgramState : Obligations.HostCannotWriteProgramState := by
  intro tr s t h hpower hreset hcycle
  cases tr
  case powerOn => exact absurd rfl hpower
  case reset => exact absurd rfl hreset
  case executeCycle rnd => exact absurd rfl (hcycle rnd)
  all_goals obtain rfl := Host.Outcome.next.inj h
  case loadRom bytes =>
    rcases loadRom_cases bytes s with ⟨-, hload⟩ | ⟨-, hload⟩ <;>
      simp +contextual [hload, readMem_writeBytes_below]
  all_goals exact ⟨rfl, rfl, rfl, rfl, rfl, rfl, rfl, rfl, fun _ _ => rfl⟩

/-- Settles O60: the cycle is the step on the given byte, and a step that leaves the core halted gives no
tone. -/
theorem cycleRepliesToneAndFaultIsReported : Obligations.CycleRepliesToneAndFaultIsReported := by
  refine ⟨fun rnd s => ⟨rfl, ?_⟩, fun s => ⟨rfl, rfl⟩⟩
  obtain ⟨u, hu, hcycle⟩ := executeCycle_eq rnd s
  exact ⟨u, _, hu, hcycle, rfl, rfl, tone_of_step_halted _ u hu⟩

end Sys2Proof.Machine

/-!
The statements about the faults (60_exceptions.md): which word and which cycle takes one, with what record, and
which transactions end the halted state.
-/

namespace Sys2Proof.Machine

/-! The illegal word (60_exceptions.md R220) -/

/-- Two bytes that decode to an illegal word are the two of that word, and no pattern matches it. -/
theorem decodeWord_of_decode_illegal {hi lo : Byte} {w : Word} (h : decode [hi, lo] = .illegal w) :
    wordOfBytes hi lo = w ∧ decodeWord w = none := by
  simp only [decode] at h
  split at h
  · exact nomatch h
  · obtain rfl := Decoded.illegal.inj h
    exact ⟨rfl, by assumption⟩

/-- The check of an access through `I` raises an address out of bounds, or nothing. -/
theorem cause_of_memFault {s : State} {last : Nat} {f : Cause × Detail} (h : memFault s last = some f) :
    f.1 = .outOfBounds := by
  obtain ⟨-, ⟨⟩⟩ := Option.ite_none_right_eq_some.1 h
  rfl

/-- The check of a key number raises an index out of bounds, or nothing. -/
theorem cause_of_keyFault {index : Byte} {f : Cause × Detail} (h : keyFault index = some f) :
    f.1 = .outOfBounds := by
  obtain ⟨-, ⟨⟩⟩ := Option.ite_none_right_eq_some.1 h
  rfl

/-- Both checks of a draw, of memory and of the grid, raise a coordinate out of bounds, or nothing. -/
theorem cause_of_faultOfInstr_drw {s : State} {x y : Reg} {n : Nat} {f : Cause × Detail}
    (h : faultOfInstr s (.drw x y n) = some f) : f.1 = .outOfBounds := by
  simp only [faultOfInstr] at h
  split at h
  · rename_i g hg
    obtain rfl := Option.some.inj h
    exact cause_of_memFault (Option.ite_none_left_eq_some.1 hg).2
  · obtain ⟨-, hgrid⟩ := Option.ite_none_right_eq_some.1 h
    obtain ⟨p, -, rfl⟩ := Option.map_eq_some_iff.1 hgrid
    rfl

/-- The causes that an instruction's own check can raise (60_exceptions.md R221 to R223). -/
theorem cause_of_faultOfInstr {s : State} {i : Instr} {f : Cause × Detail}
    (h : faultOfInstr s i = some f) :
    f.1 = .outOfBounds ∨ f.1 = .stackOverflow ∨ f.1 = .stackUnderflow := by
  cases i
  case ret =>
    obtain ⟨-, ⟨⟩⟩ := Option.ite_none_right_eq_some.1 h
    exact .inr (.inr rfl)
  case call nnn =>
    obtain ⟨-, ⟨⟩⟩ := Option.ite_none_right_eq_some.1 h
    exact .inr (.inl rfl)
  case ldB | ldMemVx | ldVxMem => exact .inl (cause_of_memFault h)
  case skp | sknp => exact .inl (cause_of_keyFault h)
  case drw x y n => exact .inl (cause_of_faultOfInstr_drw h)
  all_goals exact nomatch h

/-- A dispatch that halts a running core has taken the fault of the instruction's own check. -/
theorem fault_of_exec_halted {i : Instr} {s t : State} (hh : s.halted = false) (h : exec i s = .next t)
    (ht : t.halted = true) :
    ∃ f, faultOfInstr s i = some f ∧ t.fault = some ⟨f.1, s.pc - 2, some (encode i), f.2⟩ := by
  rw [exec_eq] at h
  obtain rfl := Host.Outcome.next.inj h
  cases hf : faultOfInstr s i with
  | some f => exact ⟨f, rfl, by simp [hh]⟩
  | none => simp [hf, hh] at ht

/-! The fault table, in its order (60_exceptions.md R228) -/

theorem faultOfCycle_of_unfetchable (s : State) (hp : 4094 < s.pc.toNat) :
    faultOfCycle s = some ⟨.outOfBounds, s.pc, none, .fetch (beyondAddress s.pc)⟩ :=
  if_pos hp

theorem faultOfCycle_of_illegal (s : State) (hp : s.pc.toNat ≤ 4094)
    (hd : decodeWord s.fetchWord = none) :
    faultOfCycle s = some ⟨.unrecognizedOpcode, s.pc, some s.fetchWord, .none⟩ := by
  rw [faultOfCycle, if_neg (Nat.not_lt.2 hp), hd]

theorem faultOfCycle_of_decode (s : State) (i : Instr) (hp : s.pc.toNat ≤ 4094)
    (hd : decodeWord s.fetchWord = some i) :
    faultOfCycle s = (faultOfInstr s i).map (fun f => ⟨f.1, s.pc, some s.fetchWord, f.2⟩) := by
  rw [faultOfCycle, if_neg (Nat.not_lt.2 hp), hd]

/-- The cycle of a running core takes the fault that the table names; where it names none, it completes an
instruction. -/
theorem step_faults_as_table_or_completes (s t : State) (hh : s.halted = false)
    (h : step s = .next t) :
    (∃ r, faultOfCycle s = some r ∧ t = { s with halted := true, fault := some r, tone := false }) ∨
    (faultOfCycle s = none ∧ ∃ i, Completes s i ∧ t = (effect i s.advancePc).tick) := by
  rcases step_effect_cases s t h with ⟨hstay, -⟩ | ⟨-, hp, rfl⟩ | ⟨-, hp, hd, rfl⟩ |
    ⟨-, hp, i, hd, ⟨f, hf, rfl⟩ | ⟨hf, rfl⟩⟩
  · exact absurd hstay (by simp [hh])
  · refine .inl ⟨_, faultOfCycle_of_unfetchable s hp, ?_⟩
    rw [State.raiseFetch_eq, s.raise_of_running hh]
    rfl
  · refine .inl ⟨_, faultOfCycle_of_illegal s hp hd, ?_⟩
    rw [State.raiseIllegal_eq, s.raise_of_running hh]
    rfl
  · refine .inl ⟨⟨f.1, s.pc, some s.fetchWord, f.2⟩, ?_, ?_⟩
    · rw [faultOfCycle_of_decode s i hp hd, hf]
      rfl
    · rw [advancePc_raiseIn, s.raise_of_running hh, encode_of_decodeWord _ _ hd]
      rfl
  · refine .inr ⟨?_, i, ⟨hh, hp, hd, hf⟩, rfl⟩
    rw [faultOfCycle_of_decode s i hp hd, hf]
    rfl

/-! The obligations -/

/-- Settles O8: the cycle of the illegal word takes its fault, and no instruction's own check raises that
cause. -/
theorem illegalWordFaults : Obligations.IllegalWordFaults := by
  constructor
  · intro s w hh hp hdec
    obtain ⟨hw, hd⟩ := decodeWord_of_decode_illegal hdec
    have hfetch : s.fetchWord = w := hw
    rw [step_of_illegal s hh hp (hfetch ▸ hd), State.raiseIllegal_eq, s.raise_of_running hh, hfetch]
    rfl
  · intro i s t r hh h ht hr
    obtain ⟨f, hf, hrec⟩ := fault_of_exec_halted hh h ht
    obtain rfl := Option.some.inj (hrec.symm.trans hr)
    rcases cause_of_faultOfInstr hf with hc | hc | hc <;> simp [hc]

/-- Settles O11: the cycle takes the table's fault, or completes an instruction, which writes neither
`halted` nor the record. -/
theorem cycleFaultsExactlyAsTable : Obligations.CycleFaultsExactlyAsTable := by
  intro s hh
  obtain ⟨t, h⟩ := dispatchAndStepAreTotal.2 s
  refine ⟨t, h, ?_⟩
  rcases step_faults_as_table_or_completes s t hh h with ⟨r, hr, rfl⟩ | ⟨hnone, i, -, rfl⟩
  · rw [hr]
    exact ⟨rfl, rfl⟩
  · simp [hnone, hh]

/-- Settles O57: a rejected load keeps the first record, a cycle of a halted core does nothing, and the
others write neither field. -/
theorem onlyResetEndsHaltedState : Obligations.OnlyResetEndsHaltedState := by
  intro tr s t h hh hpower hreset
  cases tr
  case powerOn => exact absurd rfl hpower
  case reset => exact absurd rfl hreset
  case executeCycle rnd =>
    have hcycle := (haltedCoreDoesNothing s 0 rnd hh).2
    obtain rfl := Host.Outcome.next.inj (hcycle.symm.trans h)
    exact ⟨hh, rfl⟩
  all_goals obtain rfl := Host.Outcome.next.inj h
  case loadRom bytes =>
    rcases loadRom_cases bytes s with ⟨-, hload⟩ | ⟨-, hload⟩ <;> simp [hload, hh]
  all_goals exact ⟨hh, rfl⟩

end Sys2Proof.Machine

/-!
The statements about the two resets (70_reset_and_hazards.md): what `construct()` and `initialize()` leave, and
what a ROM loaded after `initialize()` finds in memory.
-/

namespace Sys2Proof.Machine

/-! The state with reset contents (70_reset_and_hazards.md R251) -/

/-- An address that memory does not list reads as the glyph table at 0 to 79 and as zero from 80 on. -/
theorem Memory.unlisted_eq (font : Font) (a : Nat) :
    Memory.unlisted font a = if h : a < 80 then font[a] else 0 := by
  by_cases h : a < 80 <;> simp [Memory.unlisted, h]

theorem State.readMem_initial (cfg : Config) (a : Nat) :
    (State.initial cfg).readMem a = if h : a < 80 then cfg.font[a] else 0 :=
  Memory.unlisted_eq cfg.font a

theorem State.getV_initial (cfg : Config) (r : Reg) : (State.initial cfg).getV r = 0 :=
  Vector.getElem_replicate _

theorem State.stack_initial (cfg : Config) (k : Fin 16) : (State.initial cfg).stack[k] = 0 :=
  Vector.getElem_replicate _

theorem State.key_initial (cfg : Config) (k : Fin 16) : (State.initial cfg).key[k] = false :=
  Vector.getElem_replicate _

theorem State.pixel_initial (cfg : Config) (row col : Nat) :
    (State.initial cfg).fb.pixel row col = false :=
  Framebuffer.pixel_blank row col

/-! The state after power-on (70_reset_and_hazards.md R250) -/

theorem readMem_constructCore (s : State) (a : Nat) : (constructCore s).readMem a = 0 :=
  Memory.read_blankGlyphs s.cfg.font a

theorem fetchWord_constructCore (s : State) : (constructCore s).fetchWord = 0 := by
  rw [State.fetchWord, State.wordAt, readMem_constructCore, readMem_constructCore]
  rfl

/-- The first cycle after power-on takes the fault of the word 0x0000 at pc 0 (70_reset_and_hazards.md R255). -/
theorem step_constructCore (s : State) : step (constructCore s) = .next { constructCore s with
    halted := true, fault := some ⟨.unrecognizedOpcode, 0, some 0, .none⟩ } := by
  have hillegal : decodeWord (constructCore s).fetchWord = none := by
    rw [fetchWord_constructCore]
    decide
  rw [step_of_illegal _ rfl (Nat.zero_le _) hillegal, fetchWord_constructCore, State.raiseIllegal_eq,
    State.raise_of_running _ rfl]
  rfl

/-! A ROM that fits, loaded (46_host_interface.md R201) -/

/-- A load leaves every byte below 0x200 alone, whether it writes or faults. -/
theorem readMem_loadRom_below (bytes : List Byte) (s : State) (a : Nat) (ha : a < 0x200) :
    (loadRom bytes s).readMem a = s.readMem a := by
  rcases loadRom_cases bytes s with ⟨-, hload⟩ | ⟨-, hload⟩ <;> rw [hload]
  · exact readMem_writeBytes_below s 0x200 a bytes ha
  · rfl

/-- With pc at 0x200, the word fetched after a load is that of the ROM's first two bytes. -/
theorem fetchWord_loadRom (b b' : Byte) (rest : List Byte) (s : State) (hpc : s.pc = 0x200)
    (hlen : (b :: b' :: rest).length ≤ 3584) :
    (loadRom (b :: b' :: rest) s).fetchWord = wordOfBytes b b' := by
  rcases loadRom_cases (b :: b' :: rest) s with ⟨-, hload⟩ | ⟨hlong, -⟩
  · have hfirst := readMem_writeBytes_add s 0x200 0 (b :: b' :: rest) (by simp)
    have hsecond := readMem_writeBytes_add s 0x200 1 (b :: b' :: rest) (by simp)
    rw [hload, State.fetchWord, State.writeBytes_pc, hpc]
    exact congrArg₂ wordOfBytes hfirst hsecond
  · exact absurd hlen (Nat.not_le.2 hlong)

/-! The obligations -/

/-- Settles O53: the load writes from 0x200 upward, where pc stands, and leaves the reset contents below. -/
theorem loadAfterInitializeKeepsLowMemory : Obligations.LoadAfterInitializeKeepsLowMemory := by
  refine fun bytes s hlen => ⟨initializeCore s, loadRom bytes (initializeCore s), rfl, rfl, ?_, ?_⟩
  · exact fun a ha => (readMem_loadRom_below bytes _ a ha).trans (State.readMem_initial s.cfg a)
  · rintro b b' rest rfl
    rw [fetchWord_loadRom b b' rest _ rfl hlen]
    exact toNat_append_field b b'

/-- Settles O16: the reset contents meet the invariant, and the generator is no part of it. -/
theorem invariantHoldsAtReset : Obligations.InvariantHoldsAtReset :=
  ⟨inv_initial Config.default, fun s => ⟨initializeCore s, rfl, inv_initial s.cfg⟩⟩

/-- Settles O50: `initialize()` leaves the reset contents and the generator, and reads only the generator
and the parameters, which it keeps. -/
theorem initializeLeavesResetState : Obligations.InitializeLeavesResetState :=
  ⟨fun s => ⟨initializeCore s, rfl, rfl, State.readMem_initial s.cfg, State.getV_initial s.cfg, rfl, rfl,
    State.stack_initial s.cfg, rfl, rfl, rfl, State.key_initial s.cfg,
    fun row col => State.pixel_initial s.cfg row col, rfl, rfl, rfl, rfl, rfl, rfl, rfl, rfl⟩, rfl⟩

/-- Settles O51: `construct()` leaves the reset contents but for pc and the glyphs, and the word 0x0000 at
pc 0 is illegal. -/
theorem constructLeavesZeroState : Obligations.ConstructLeavesZeroState :=
  fun s => ⟨constructCore s, rfl, rfl, readMem_constructCore s, State.getV_initial s.cfg, rfl, rfl,
    State.stack_initial s.cfg, rfl, rfl, rfl, State.key_initial s.cfg,
    fun row col => State.pixel_initial s.cfg row col, rfl, rfl, rfl, rfl, step_constructCore s⟩

end Sys2Proof.Machine
